-- ==== Sys2Proof/Word.lean ====
section
/-! DEFINITION. The word types of SMLReader CORE: bytes, time values, slot values and the widths of the
scratch registers (spec/10_state.md R20, spec/00_scope.md R6). `TIMEW` and `SLOTW` are parameters of
R6, so a time value and a slot's pattern are numbers below 2^TIMEW and 2^SLOTW. -/

namespace Sys2Proof

/-- A byte of the input stream or of the frame buffer (R10). -/
abbrev Byte := BitVec 8

/-- A time value: an unsigned count of time units, `TIMEW` bits of it (R6, R257). -/
abbrev Time := Nat

/-- The content of one sink slot: the unsigned reading of its `SLOTW` bits (R6, R37). -/
abbrev SlotWord := Nat

/-- The CRC register (R27). -/
abbrev CrcWord := BitVec 16

/-- The value accumulator (R29), and the bit pattern of a signed 64-bit raw value (R30). -/
abbrev AccWord := BitVec 64

end Sys2Proof
end

