-- ==== Sys2Proof/Config.lean ====
section
/-! DEFINITION. The implementation parameters of spec/00_scope.md R6 as a configuration record, the
constraints of R7 a record must meet, and the values this hardware takes. -/

namespace Sys2Proof

/-- One entry of the metric table, `METRICS[i]` (R36). `name` is read by no rule (R8). -/
structure Metric where
  name : String
  pattern : List Byte
  deriving DecidableEq, Repr

/-- The parameters of R6; the CRC parameters are fixed (`crcPoly`, `crcInit`, `crcXorOut`). `TIMEOUT`
and `TUNIT` are counted in microseconds: DESIGN CHOICE, notes/assumptions/1.md. -/
structure Config where
  /-- `C`, the frame buffer's capacity in bytes. -/
  capacity : Nat
  /-- `RSV`, the bytes reserved at the top of the buffer for the trailer. -/
  reserve : Nat
  /-- `START`, the start marker. -/
  startMarker : List Byte
  /-- `END`, the end marker. -/
  endMarker : List Byte
  /-- `TRL`, the trailer's length after END. -/
  trailerLen : Nat
  /-- `N`, the number of sink slots. -/
  slotCount : Nat
  /-- `SLOTW`, the width of a slot in bits. -/
  slotWidth : Nat
  /-- `TIMEOUT`, the timeout threshold in microseconds. -/
  timeout : Nat
  /-- `TIMEW`, the width of the time value in bits. -/
  timeWidth : Nat
  /-- `TUNIT`, the unit of the time value in microseconds. -/
  timeUnit : Nat
  /-- `SIGNEXT`, width-correct sign extension (R195) or the recorded legacy behaviour (R196). -/
  signExt : Bool
  /-- `METRICS`; its length is `M`. -/
  metrics : List Metric
  deriving DecidableEq, Repr

/-- `M`, the number of metric definitions (R6). -/
def Config.metricCount (c : Config) : Nat := c.metrics.length

/-- `TIMEOUT_T`, the timeout threshold in time units (R6, D2). -/
def Config.timeoutT (c : Config) : Nat := c.timeout / c.timeUnit

/-- The constraints of R7. The marker lengths are R6's own ("8 bytes", "5 bytes"); that `TRL` is 1 to
3 is read from the two bits of `trem` (R24), that a slot has a sign bit from R218, and that the unit
divides the threshold from D2: DEDUCED. At most 64 bits of time: DESIGN CHOICE. All in
notes/assumptions/3.md. -/
def Config.wf (c : Config) : Bool :=
  decide (c.startMarker.length + c.endMarker.length + c.trailerLen ≤ c.capacity) &&
  decide (c.reserve = c.trailerLen) &&
  decide (c.capacity < 4096) &&
  decide (c.startMarker.length = 8) &&
  decide (c.endMarker.length = 5) &&
  decide (1 ≤ c.trailerLen) && decide (c.trailerLen ≤ 3) &&
  c.metrics.all (fun m => decide (1 ≤ m.pattern.length)) &&
  decide (1 ≤ c.slotWidth) && decide (c.timeWidth ≤ 64) &&
  decide (1 ≤ c.timeUnit) && decide (c.timeUnit ∣ c.timeout)

/-- The eight bytes of START (R86). -/
def startBytes : List Byte := [0x1B, 0x1B, 0x1B, 0x1B, 0x01, 0x01, 0x01, 0x01]

/-- The five bytes of END (R87). -/
def endBytes : List Byte := [0x1B, 0x1B, 0x1B, 0x1B, 0x1A]

/-- The one metric pattern the source quotes (R8). -/
def referencePattern : List Byte := [0x77, 0x07, 0x01, 0x00, 0x01, 0x08, 0x00, 0xFF]

/-- The values this hardware takes (R6). The metric table is OPEN in the spec (R8); the one entry
here is the configuration of the spec's program P1: DESIGN CHOICE, notes/assumptions/2.md. -/
def Config.reference : Config where
  capacity := 3840
  reserve := 3
  startMarker := startBytes
  endMarker := endBytes
  trailerLen := 3
  slotCount := 4
  slotWidth := 32
  timeout := 30000000
  timeWidth := 32
  timeUnit := 1000
  signExt := true
  metrics := [⟨"m0", referencePattern⟩]

/-- The markers and the trailer length are the ones R6 gives this hardware. -/
abbrev Config.Given (c : Config) : Prop :=
  c.startMarker = startBytes ∧ c.endMarker = endBytes ∧ c.trailerLen = 3

/-- The CRC polynomial 0x1021 bit-reversed, for the right-shifting form (R130). -/
def crcPoly : CrcWord := 0x8408

/-- The CRC's initial register (R130). -/
def crcInit : CrcWord := 0xFFFF

/-- The CRC's final exclusive or (R130). -/
def crcXorOut : CrcWord := 0xFFFF

/-- The `now` of the one RESET that brings the machine up (R273 b); the value is the environment's.
DESIGN CHOICE, notes/assumptions/4.md. -/
def Config.resetTime : Time := 0

end Sys2Proof
end

