-- ==== Sys2Proof/Syntax.lean ====
section
/-! DEFINITION. The operations of SMLReader CORE, one constructor per row of spec/opcode_table.json
(spec/30_encoding.md R102, R105, R106, R86 to R88), and the form in which an operation is written as
bytes (`OpWord`). -/

namespace Sys2Proof

/-- The framing state `st` (R21); its two-bit code is the low half of a `SEL4` selector (R102). -/
inductive FrameState where
  | awaitStart
  | accumulateBody
  | readTrailer
  | decode
  deriving DecidableEq, Repr

/-- The five TLV fields of a metric entry, in order (R91). A `TAG8` encoding is read in the context of
one of them (R106). -/
inductive Field where
  | status
  | time
  | unit
  | scaler
  | value
  deriving DecidableEq, Repr

/-- The formats of the opcode table (R107). They are separate name spaces: the same bits mean
different operations in different formats. -/
inductive Format where
  | sel4
  | uop
  | tag8
  | mark
  | trailer
  deriving DecidableEq, Repr

/-- One operation written down: its format, the table's bits as bytes (first byte first) and after
them the operand bytes. The operand layout is the model's: DESIGN CHOICE, notes/assumptions/6.md. -/
structure OpWord where
  fmt : Format
  bytes : List Byte
  deriving DecidableEq, Repr

/-- The operations, one constructor per row of the opcode table. -/
inductive Instr where
  /-- RESET, `10ss` (R270): any state bits, operand the time value. -/
  | reset (ss : FrameState) (now : Time)
  /-- TICK, `01ss` (R148): any state bits, operands the time value and the bytes available. -/
  | tick (ss : FrameState) (now : Time) (bs : List Byte)
  /-- RX.AS, `0000` (R151). -/
  | rxAs (b : Byte)
  /-- RX.AB, `0001` (R153). -/
  | rxAb (b : Byte)
  /-- RX.RT, `0010` (R156). -/
  | rxRt (b : Byte)
  /-- RX.DE, `0011` (R157): never enabled. -/
  | rxDe (b : Byte)
  /-- DECODE, `1111` (R158). -/
  | decode
  /-- SEL.NONE, `11ss` with `ss` other than `11` (R161): the block does nothing. -/
  | selNone (ss : FrameState)
  /-- ENTER.AS, UOP 0 (R147). -/
  | enterAs
  /-- TMO.CHK, UOP 1 (R149). -/
  | tmoChk
  /-- BUF.RESET, UOP 2 (R116). -/
  | bufReset
  /-- BUF.APPEND, UOP 3 (R117). -/
  | bufAppend (b : Byte) (limit : Nat)
  /-- BUF.SLICE, UOP 4 (R119). -/
  | bufSlice (lo hi : Nat)
  /-- CRC.BYTE, UOP 5 (R131). -/
  | crcByte (b : Byte)
  /-- CRC.SPAN, UOP 6 (R132). -/
  | crcSpan (lo hi : Nat)
  /-- CRC.VERIFY, UOP 7 (R134). -/
  | crcVerify
  /-- MD.FIND, UOP 8 (R181). -/
  | mdFind (i : Nat)
  /-- RD, UOP 9 (R183). -/
  | rd (k : Nat)
  /-- TLV.TAG, UOP 10 (R184). -/
  | tlvTag
  /-- TLV.SKIP, UOP 11 (R187). -/
  | tlvSkip
  /-- TLV.U8, UOP 12 (R190). -/
  | tlvU8
  /-- TLV.S8, UOP 13 (R191). -/
  | tlvS8
  /-- TLV.VAL, UOP 14 (R192). -/
  | tlvVal
  /-- MD.DECODE, UOP 15 (R198). -/
  | mdDecode (i : Nat)
  /-- MD.ALL, UOP 16 (R200). -/
  | mdAll
  /-- PUB.SCALE, UOP 17 (R216): operands the raw value and the scaler as bit patterns. -/
  | pubScale (rv : AccWord) (sc : Byte)
  /-- PUB.WRITE, UOP 18 (R219). -/
  | pubWrite (i : Nat)
  /-- PUB.ALL, UOP 19 (R223). -/
  | pubAll
  /-- TLV.EXT, `1TTTLLLL` (R186), in any field. -/
  | tlvExt (f : Field) (t : BitVec 3) (l : BitVec 4)
  /-- TLV.ZERO, `0TTT0000` (R185), in any field. -/
  | tlvZero (f : Field) (t : BitVec 3)
  /-- TLV.SIGNED, `0101LLLL` (R195), Value field. -/
  | tlvSigned (l : BitVec 4)
  /-- TLV.UNSIGNED.T0, `0000LLLL` (R194), Value field. -/
  | tlvUnsignedT0 (l : BitVec 4)
  /-- TLV.UNSIGNED.T1, `0001LLLL` (R194), Value field. -/
  | tlvUnsignedT1 (l : BitVec 4)
  /-- TLV.UNSIGNED.T2, `0010LLLL` (R194), Value field. -/
  | tlvUnsignedT2 (l : BitVec 4)
  /-- TLV.UNSIGNED.T3, `0011LLLL` (R194), Value field. -/
  | tlvUnsignedT3 (l : BitVec 4)
  /-- TLV.UNSIGNED.T4, `0100LLLL` (R194), Value field. -/
  | tlvUnsignedT4 (l : BitVec 4)
  /-- TLV.UNSIGNED.T6, `0110LLLL` (R194), Value field. -/
  | tlvUnsignedT6 (l : BitVec 4)
  /-- TLV.UNSIGNED.T7, `0111LLLL` (R194), Value field. -/
  | tlvUnsignedT7 (l : BitVec 4)
  /-- TLV.ANY, `0TTTLLLL` (R187, R190, R191), Status, Time, Unit or Scaler field. -/
  | tlvAny (f : Field) (t : BitVec 3) (l : BitVec 4)
  /-- START, the eight bytes of the start marker on the wire (R86). -/
  | startMark
  /-- END, the five bytes of the end marker on the wire (R87). -/
  | endMark
  /-- TRAILER, `FFFFFFFFLLLLLLLLHHHHHHHH` (R88): fillCount, checksum low byte, checksum high byte. -/
  | trailer (fill lo hi : Byte)
  deriving DecidableEq, Repr

end Sys2Proof
end

