-- ==== Sys2Proof/WellFormed.lean ====
section
/-! DEFINITION. Which operations the encodings of spec/30_encoding.md can write down. -/

namespace Sys2Proof

/-- A natural number that a 16-bit operand of an `OpWord` can hold (notes/assumptions/6.md). -/
def fits16 (n : Nat) : Bool := decide (n < 65536)

/-- A time value that the eight operand bytes of an `OpWord` can hold (notes/assumptions/6.md). -/
def fits64 (n : Nat) : Bool := decide (n < 18446744073709551616)

/-- The side conditions of the opcode table's rows: `SEL.NONE` excludes `ss` = 11 (R102), the value
rows and TLV.ANY exclude `L` = 0, TLV.ANY is no Value field (R106), a span has `from <= to` (R119,
R132), and a numeric operand fits its 16 bits, a time value its 64. -/
def Instr.wf : Instr → Bool
  | .reset _ now => fits64 now
  | .tick _ now _ => fits64 now
  | .rxAs _ => true
  | .rxAb _ => true
  | .rxRt _ => true
  | .rxDe _ => true
  | .decode => true
  | .selNone ss => decide (ss ≠ .decode)
  | .enterAs => true
  | .tmoChk => true
  | .bufReset => true
  | .bufAppend _ limit => fits16 limit
  | .bufSlice lo hi => decide (lo ≤ hi) && fits16 hi
  | .crcByte _ => true
  | .crcSpan lo hi => decide (lo ≤ hi) && fits16 hi
  | .crcVerify => true
  | .mdFind i => fits16 i
  | .rd k => fits16 k
  | .tlvTag => true
  | .tlvSkip => true
  | .tlvU8 => true
  | .tlvS8 => true
  | .tlvVal => true
  | .mdDecode i => fits16 i
  | .mdAll => true
  | .pubScale _ _ => true
  | .pubWrite i => fits16 i
  | .pubAll => true
  | .tlvExt _ _ _ => true
  | .tlvZero _ _ => true
  | .tlvSigned l => decide (l ≠ 0)
  | .tlvUnsignedT0 l => decide (l ≠ 0)
  | .tlvUnsignedT1 l => decide (l ≠ 0)
  | .tlvUnsignedT2 l => decide (l ≠ 0)
  | .tlvUnsignedT3 l => decide (l ≠ 0)
  | .tlvUnsignedT4 l => decide (l ≠ 0)
  | .tlvUnsignedT6 l => decide (l ≠ 0)
  | .tlvUnsignedT7 l => decide (l ≠ 0)
  | .tlvAny f _ l => decide (f ≠ .value) && decide (l ≠ 0)
  | .startMark => true
  | .endMark => true
  | .trailer _ _ _ => true

end Sys2Proof
end

