-- ==== Sys2Proof/Decode.lean ====
section
/-! DEFINITION. The decoder of operation words and the encoder, from the opcode tables of
spec/30_encoding.md (R102, R105, R106, R86 to R88), the fields of the tag/length byte (R92), and the
host's table numbering. -/

namespace Sys2Proof

/-- Why a word is no operation. -/
inductive DecodeError where
  /-- The word has no selector byte. -/
  | emptyWord
  /-- A `SEL4` selector has only four bits (R102). -/
  | selectorTooWide
  /-- No operation of R105 has this index. -/
  | unknownUop
  /-- The operand bytes are not those the operation takes. -/
  | badOperands
  /-- A span operand with `from > to` (R119, R132). -/
  | badSpan
  /-- No TLV field has this number (notes/assumptions/6.md). -/
  | unknownField
  /-- The bytes are neither START nor END (R86, R87). -/
  | unknownMark
  deriving DecidableEq, Repr

/-- The outcome of decoding: an operation, or a rejection by name. -/
inductive Decoded where
  | instr (i : Instr)
  | reject (e : DecodeError)
  deriving DecidableEq, Repr

/-- The operation a decoding gave, if any. -/
def Decoded.toOption : Decoded → Option Instr
  | .instr i => some i
  | .reject _ => none

/-! ### The tag/length byte (R92) -/

/-- `X`, bit 7. -/
def tagX (tag : Byte) : Bool := tag.getLsbD 7

/-- `T`, bits 6:4. -/
def tagT (tag : Byte) : BitVec 3 := tag.extractLsb' 4 3

/-- `L`, bits 3:0. -/
def tagL (tag : Byte) : BitVec 4 := tag.extractLsb' 0 4

/-- The tag byte with the given parts, `XTTTLLLL`. -/
def tagByte (x : Bool) (t : BitVec 3) (l : BitVec 4) : Byte :=
  (BitVec.ofBool x ++ t ++ l : BitVec 8)

/-! ### Selector codes -/

/-- The two-bit code of a framing state (R21, R102). -/
def FrameState.code : FrameState → Byte
  | .awaitStart => 0
  | .accumulateBody => 1
  | .readTrailer => 2
  | .decode => 3

/-- The framing state with a two-bit code (R21). -/
def FrameState.ofCode (c : BitVec 2) : FrameState :=
  match c.toNat with
  | 0 => .awaitStart
  | 1 => .accumulateBody
  | 2 => .readTrailer
  | _ => .decode

/-- A `SEL4` selector byte: `ev[1:0] || st[1:0]` in its low four bits (R102). -/
def selByte (ev : Byte) (ss : FrameState) : Byte := (ev <<< 2) ||| ss.code

/-- The operand byte that names a field: Value 0, then Status, Time, Unit, Scaler
(notes/assumptions/6.md). -/
def Field.code : Field → Byte
  | .value => 0
  | .status => 1
  | .time => 2
  | .unit => 3
  | .scaler => 4

/-- The field an operand byte names. -/
def Field.ofCode (c : Byte) : Option Field :=
  match c.toNat with
  | 0 => some .value
  | 1 => some .status
  | 2 => some .time
  | 3 => some .unit
  | 4 => some .scaler
  | _ => none

/-! ### Operand bytes, lowest byte first (notes/assumptions/6.md) -/

/-- The `n` low bytes of a number, lowest first. -/
def leBytes : Nat → Nat → List Byte
  | 0, _ => []
  | n + 1, v => BitVec.ofNat 8 v :: leBytes n (v / 256)

/-- The number that bytes make, lowest first. -/
def leNat : List Byte → Nat
  | [] => 0
  | b :: bs => b.toNat + 256 * leNat bs

/-- No operand. -/
def opNone (i : Instr) (ops : List Byte) : Decoded :=
  if ops.length = 0 then .instr i else .reject .badOperands

/-- One byte operand. -/
def opByte (f : Byte → Instr) : List Byte → Decoded
  | [b] => .instr (f b)
  | _ => .reject .badOperands

/-- One 16-bit number. -/
def opNat (f : Nat → Instr) (ops : List Byte) : Decoded :=
  if ops.length = 2 then .instr (f (leNat ops)) else .reject .badOperands

/-- A byte and a 16-bit number. -/
def opByteNat (f : Byte → Nat → Instr) : List Byte → Decoded
  | b :: ops => if ops.length = 2 then .instr (f b (leNat ops)) else .reject .badOperands
  | [] => .reject .badOperands

/-- A span: two 16-bit numbers, the first not above the second. -/
def opSpan (f : Nat → Nat → Instr) (ops : List Byte) : Decoded :=
  if ops.length = 4 then
    if leNat (ops.take 2) ≤ leNat (ops.drop 2) then
      .instr (f (leNat (ops.take 2)) (leNat (ops.drop 2)))
    else .reject .badSpan
  else .reject .badOperands

/-- A raw value (8 bytes) and a scaler byte. -/
def opScale (f : AccWord → Byte → Instr) (ops : List Byte) : Decoded :=
  if ops.length = 9 then
    .instr (f (BitVec.ofNat 64 (leNat (ops.take 8))) (BitVec.ofNat 8 (leNat (ops.drop 8))))
  else .reject .badOperands

/-! ### The decoder -/

/-- `SEL4` (R102). An RX selector takes the input byte, RESET the time value, TICK the time value and
then all the bytes available. -/
def decodeSel (c : Byte) (ops : List Byte) : Decoded :=
  if 16 ≤ c.toNat then .reject .selectorTooWide
  else
    let ss := FrameState.ofCode (c.extractLsb' 0 2)
    match (c.extractLsb' 2 2).toNat with
    | 0 =>
      match ss with
      | .awaitStart => opByte .rxAs ops
      | .accumulateBody => opByte .rxAb ops
      | .readTrailer => opByte .rxRt ops
      | .decode => opByte .rxDe ops
    | 1 =>
      if 8 ≤ ops.length then .instr (.tick ss (leNat (ops.take 8)) (ops.drop 8))
      else .reject .badOperands
    | 2 =>
      if ops.length = 8 then .instr (.reset ss (leNat ops))
      else .reject .badOperands
    | _ => if ss = .decode then opNone .decode ops else opNone (.selNone ss) ops

/-- `UOP` (R105). -/
def decodeUop (c : Byte) (ops : List Byte) : Decoded :=
  match c.toNat with
  | 0 => opNone .enterAs ops
  | 1 => opNone .tmoChk ops
  | 2 => opNone .bufReset ops
  | 3 => opByteNat .bufAppend ops
  | 4 => opSpan .bufSlice ops
  | 5 => opByte .crcByte ops
  | 6 => opSpan .crcSpan ops
  | 7 => opNone .crcVerify ops
  | 8 => opNat .mdFind ops
  | 9 => opNat .rd ops
  | 10 => opNone .tlvTag ops
  | 11 => opNone .tlvSkip ops
  | 12 => opNone .tlvU8 ops
  | 13 => opNone .tlvS8 ops
  | 14 => opNone .tlvVal ops
  | 15 => opNat .mdDecode ops
  | 16 => opNone .mdAll ops
  | 17 => opScale .pubScale ops
  | 18 => opNat .pubWrite ops
  | 19 => opNone .pubAll ops
  | _ => .reject .unknownUop

/-- The row of a Value field's type code: 5 is signed, every other code unsigned (R94, R106). -/
def valueRow (t : BitVec 3) (l : BitVec 4) : Instr :=
  match t.toNat with
  | 0 => .tlvUnsignedT0 l
  | 1 => .tlvUnsignedT1 l
  | 2 => .tlvUnsignedT2 l
  | 3 => .tlvUnsignedT3 l
  | 4 => .tlvUnsignedT4 l
  | 5 => .tlvSigned l
  | 6 => .tlvUnsignedT6 l
  | _ => .tlvUnsignedT7 l

/-- `TAG8` (R106): a tag byte read in the context of a field; `X` = 1 first, then `L` = 0, then the
field and `T`. Every tag byte is a row. -/
def decodeTag (f : Field) (tag : Byte) : Instr :=
  if tagX tag then .tlvExt f (tagT tag) (tagL tag)
  else if tagL tag = 0 then .tlvZero f (tagT tag)
  else if f = .value then valueRow (tagT tag) (tagL tag)
  else .tlvAny f (tagT tag) (tagL tag)

/-- `TAG8` as an operation word: the tag byte and the byte that names the field. -/
def decodeTagWord (bytes : List Byte) : Decoded :=
  match bytes with
  | [tag, c] =>
    match Field.ofCode c with
    | some f => .instr (decodeTag f tag)
    | none => .reject .unknownField
  | _ => .reject .badOperands

/-- The decoder, total on any bytes. -/
def decode (w : OpWord) : Decoded :=
  match w.fmt with
  | .sel4 =>
    match w.bytes with
    | [] => .reject .emptyWord
    | c :: ops => decodeSel c ops
  | .uop =>
    match w.bytes with
    | [] => .reject .emptyWord
    | c :: ops => decodeUop c ops
  | .tag8 => decodeTagWord w.bytes
  | .mark =>
    if w.bytes = startBytes then .instr .startMark
    else if w.bytes = endBytes then .instr .endMark
    else .reject .unknownMark
  | .trailer =>
    match w.bytes with
    | [fill, lo, hi] => .instr (.trailer fill lo hi)
    | _ => .reject .badOperands

/-! ### The encoder -/

/-- A `SEL4` word. -/
def encodeSel (ev : Byte) (ss : FrameState) (ops : List Byte) : OpWord :=
  ⟨.sel4, selByte ev ss :: ops⟩

/-- A `UOP` word. -/
def encodeUop (index : Byte) (ops : List Byte) : OpWord := ⟨.uop, index :: ops⟩

/-- A `TAG8` word. -/
def encodeTag (f : Field) (x : Bool) (t : BitVec 3) (l : BitVec 4) : OpWord :=
  ⟨.tag8, [tagByte x t l, f.code]⟩

/-- The word of an operation, from the same tables. -/
def encode : Instr → OpWord
  | .reset ss now => encodeSel 2 ss (leBytes 8 now)
  | .tick ss now bs => encodeSel 1 ss (leBytes 8 now ++ bs)
  | .rxAs b => encodeSel 0 .awaitStart [b]
  | .rxAb b => encodeSel 0 .accumulateBody [b]
  | .rxRt b => encodeSel 0 .readTrailer [b]
  | .rxDe b => encodeSel 0 .decode [b]
  | .decode => encodeSel 3 .decode []
  | .selNone ss => encodeSel 3 ss []
  | .enterAs => encodeUop 0 []
  | .tmoChk => encodeUop 1 []
  | .bufReset => encodeUop 2 []
  | .bufAppend b limit => encodeUop 3 (b :: leBytes 2 limit)
  | .bufSlice lo hi => encodeUop 4 (leBytes 2 lo ++ leBytes 2 hi)
  | .crcByte b => encodeUop 5 [b]
  | .crcSpan lo hi => encodeUop 6 (leBytes 2 lo ++ leBytes 2 hi)
  | .crcVerify => encodeUop 7 []
  | .mdFind i => encodeUop 8 (leBytes 2 i)
  | .rd k => encodeUop 9 (leBytes 2 k)
  | .tlvTag => encodeUop 10 []
  | .tlvSkip => encodeUop 11 []
  | .tlvU8 => encodeUop 12 []
  | .tlvS8 => encodeUop 13 []
  | .tlvVal => encodeUop 14 []
  | .mdDecode i => encodeUop 15 (leBytes 2 i)
  | .mdAll => encodeUop 16 []
  | .pubScale rv sc => encodeUop 17 (leBytes 8 rv.toNat ++ [sc])
  | .pubWrite i => encodeUop 18 (leBytes 2 i)
  | .pubAll => encodeUop 19 []
  | .tlvExt f t l => encodeTag f true t l
  | .tlvZero f t => encodeTag f false t 0
  | .tlvSigned l => encodeTag .value false 5 l
  | .tlvUnsignedT0 l => encodeTag .value false 0 l
  | .tlvUnsignedT1 l => encodeTag .value false 1 l
  | .tlvUnsignedT2 l => encodeTag .value false 2 l
  | .tlvUnsignedT3 l => encodeTag .value false 3 l
  | .tlvUnsignedT4 l => encodeTag .value false 4 l
  | .tlvUnsignedT6 l => encodeTag .value false 6 l
  | .tlvUnsignedT7 l => encodeTag .value false 7 l
  | .tlvAny f t l => encodeTag f false t l
  | .startMark => ⟨.mark, startBytes⟩
  | .endMark => ⟨.mark, endBytes⟩
  | .trailer fill lo hi => ⟨.trailer, [fill, lo, hi]⟩

/-! ### The host's numbering of table words -/

/-- How many operand bytes follow a `SEL4` selector when every operand bit is zero. -/
def selOperandBytes (c : Byte) : Nat :=
  match (c.extractLsb' 2 2).toNat with
  | 0 => 1
  | 1 => 8
  | 2 => 8
  | _ => 0

/-- How many operand bytes follow a `UOP` index. -/
def uopOperandBytes (c : Byte) : Nat :=
  match c.toNat with
  | 3 => 3
  | 4 => 4
  | 5 => 1
  | 6 => 4
  | 8 => 2
  | 9 => 2
  | 15 => 2
  | 17 => 9
  | 18 => 2
  | _ => 0

/-- The operation word whose table bits are `w`, its operand bytes zero. The width tells the format:
4 bits a selector, 5 an index, 24 a trailer, 40 and 64 a marker. A word of 8 bits can be a selector, an
index or a tag byte, since their name spaces overlap (R107): below 20 it is read as the index that
R105 gives that number, from 20 on as a tag byte. The bytes of a trailer or a marker are taken from
the number lowest byte first, so its lowest byte is the first on the wire; the numerals that R86 and
R87 write first byte first (`0x1B1B1B1B01010101`, `0x1B1B1B1B1A`) are in the other order and read as no
marker. DESIGN CHOICE for both, notes/assumptions/7.md. -/
def tableWord (nbits w : Nat) : Option OpWord :=
  let c := BitVec.ofNat 8 w
  if nbits = 4 then some ⟨.sel4, c :: List.replicate (selOperandBytes c) 0⟩
  else if nbits = 5 then some ⟨.uop, c :: List.replicate (uopOperandBytes c) 0⟩
  else if nbits = 8 then
    if w < 20 then some ⟨.uop, c :: List.replicate (uopOperandBytes c) 0⟩
    else some ⟨.tag8, [c, 0]⟩
  else if nbits = 24 then some ⟨.trailer, leBytes 3 w⟩
  else if nbits = 40 then some ⟨.mark, leBytes 5 w⟩
  else if nbits = 64 then some ⟨.mark, leBytes 8 w⟩
  else none

/-- The operation the decoder reads from a word of the opcode table. -/
def decodeTableWord (nbits w : Nat) : Option Instr :=
  match tableWord nbits w with
  | some ow => (decode ow).toOption
  | none => none

end Sys2Proof
end

