-- ==== Sys2Proof/Machine/State.lean ====
section
/-! DEFINITION. Everything spec/10_state.md gives the machine (R20, R37), the configuration record it
runs under (R6), the events it exchanges with its environment (R9), the reasons a step can stop, and
the state after reset (R270, R271). -/

namespace Sys2Proof.Machine

/-- The frame buffer BUF (R23, R61): the bytes by address, strictly rising, a byte that reads as
`Memory.blank` not listed. -/
abbrev Memory := List Host.Cell

/-- What an address of BUF that no operation has written reads as. R271 lets a model initialise it to
0. DESIGN CHOICE, notes/assumptions/5.md. -/
def Memory.blank : Byte := 0

/-- The error kinds of R236. They are reported events, not stops of the machine (R235). -/
inductive ErrKind where
  | bufferOverflow
  | checksumMismatch
  | unsupportedFieldLength
  | sinkSlotExhausted
  | timeout
  | outOfRange
  | valueOutOfRange
  deriving DecidableEq, Repr

/-- An event the block emits (R9 c, d): a slot write, or a report carrying an error code of R236 and a
metric index or none. -/
inductive Output where
  | slotwr (i : Nat) (v : SlotWord)
  | report (code : Nat) (idx : Option Nat)
  deriving DecidableEq, Repr

/-- An event the environment has ready for the block (R9 a, b; R17): a reset, or a tick. R9 lets a
model run a tick as one operation (`tick`) or as its fine-grained steps (`tickSteps`); which of the two
is the model's own mark on the event (notes/assumptions/9.md). -/
inductive Event where
  | reset (now : Time)
  | tick (now : Time) (bs : List Byte)
  | tickSteps (now : Time) (bs : List Byte)
  deriving DecidableEq, Repr

/-- A present DecodedValue (R30): the raw value's 64-bit two's-complement pattern, the unit code, and
the scaler's 8-bit two's-complement pattern. -/
structure DecodedValue where
  rawValue : AccWord
  unit : Byte
  scaler : Byte
  deriving DecidableEq, Repr

/-- What the rule of a sub-operation says it returns, for one issued on its own
(notes/assumptions/8.md). -/
inductive OpResult where
  /-- No sub-operation with a result has been issued. -/
  | none
  /-- The sub-operation succeeded and has nothing to return. -/
  | done
  /-- BUF.APPEND returned `Overflow` (R117). -/
  | overflow
  /-- A truth value (CRC.VERIFY). -/
  | flag (b : Bool)
  /-- A byte (RD), or an unsigned 8-bit value (TLV.U8). -/
  | byte (b : Byte)
  /-- A byte sequence (BUF.SLICE). -/
  | bytes (bs : List Byte)
  /-- A 16-bit value (CRC.SPAN). -/
  | crc (c : CrcWord)
  /-- A field length (TLV.TAG). -/
  | fieldLength (l : Nat)
  /-- An offset or `none` (MD.FIND). -/
  | offset (o : Option Nat)
  /-- A signed integer: 8-bit (TLV.S8), 64-bit (TLV.VAL) or unbounded (PUB.SCALE). -/
  | int (q : Int)
  /-- The operation failed with this kind (RD and the TLV operations). -/
  | fail (k : ErrKind)
  deriving DecidableEq, Repr

/-- Why the machine stops with a fault. -/
inductive Fault where
  /-- An access to an address BUF does not have (R60, R83), below 0 or at `C` and above. Raised by
  RX.AS, CRC.VERIFY, DECODE and the operations that read BUF, only in states that R44 rules out. Safe:
  the machine stops where the spec gives no byte. -/
  | bufAddress
  deriving DecidableEq, Repr

/-- Why an operation is refused. -/
inductive Refusal where
  /-- Raised by `exec` for an operation that has no meaning yet; no arm does. Safe. -/
  | notModelled (mnemonic : String)
  /-- Raised by `step` under a configuration R7 refuses. Safe: the spec's own refusal (I20). -/
  | badConfig
  /-- Raised by `step` for an operation word that encodes nothing. Safe. -/
  | undecodable (e : DecodeError)
  /-- Raised by RX.DE: no byte is consumed in Decode (R157, I14). Safe: the spec's own refusal. -/
  | noByteInDecode
  /-- Raised by RX.AS, RX.AB, RX.RT and DECODE when `st` is not the state their selector holds (R102).
  Safe: the spec gives the pair no operation. -/
  | selectorMismatch
  /-- Raised by BUF.APPEND for a `limit` above `C` (R117's operand condition). Safe. -/
  | appendLimit
  /-- Raised by BUF.SLICE and CRC.SPAN for a span not within `[0, len]` (R119, R132, I19). Safe: the
  spec's own refusal. -/
  | badSpan
  /-- Raised by MD.FIND, MD.DECODE and PUB.WRITE for an operand that is no metric index. Safe. -/
  | noSuchMetric
  deriving DecidableEq, Repr

/-- The machine: the spec's state (R20, R37), the configuration it runs under (R6), and the model's own
bookkeeping (`out`, `ret`, `rest`, `pend`, `port`). -/
structure State where
  /-- The configuration (R6); fixed before reset, read-only afterwards (R35, R36). -/
  cfg : Config
  /-- `st` (R21). -/
  st : FrameState
  /-- `len`, the cursor of the frame buffer, and in AwaitStart the start-match count (R22, R40). -/
  len : Nat
  /-- `buf` (R23). -/
  buf : Memory
  /-- `trem` (R24), two bits. -/
  trem : BitVec 2
  /-- `tlast` (R25). -/
  tlast : Time
  /-- `tnow` (R26). -/
  tnow : Time
  /-- `crc` (R27). -/
  crc : CrcWord
  /-- `cur` (R28). -/
  cur : Nat
  /-- `acc` (R29). -/
  acc : AccWord
  /-- `tl` (R29). -/
  tl : Byte
  /-- `dec[0..M)` (R30); `none` is absent (R31). -/
  dec : List (Option DecodedValue)
  /-- `SLOT[0..N)` (R37), as far as the block's own writes tell. -/
  slots : List SlotWord
  /-- MODEL: the events emitted so far, first one first (R42). -/
  out : List Output
  /-- MODEL: the result of the last sub-operation issued on its own. -/
  ret : OpResult
  /-- MODEL: the bytes of a tick in progress that are not yet consumed, in arrival order; empty outside
  a tick that runs in its fine-grained steps (R9, R148). -/
  rest : List Byte
  /-- MODEL: the events the environment has ready, first one first (R41). -/
  pend : List Event
  /-- MODEL: an operation word put forward for the next step, ahead of every event. -/
  port : Option OpWord
  deriving DecidableEq, Repr

/-- The machine right after its RESET (R270, R271), with no event pending. The elements R271 leaves
unspecified are 0. DESIGN CHOICE, notes/assumptions/5.md. -/
def State.reset : State where
  cfg := Config.reference
  st := .awaitStart
  len := 0
  buf := []
  trem := 0
  tlast := Config.resetTime
  tnow := Config.resetTime
  crc := 0
  cur := 0
  acc := 0
  tl := 0
  dec := List.replicate Config.reference.metricCount none
  slots := List.replicate Config.reference.slotCount 0
  out := []
  ret := .none
  rest := []
  pend := []
  port := none

/-- What a step or a meaning answers. -/
abbrev Outcome := Host.Outcome State Fault Refusal

end Sys2Proof.Machine
end

