-- ==== Sys2Proof/Machine/Ops.lean ====
section
/-! DEFINITION. The named operations over memory and registers that the meanings share: BUF reads and
writes, the event list, the error entry of spec/60_exceptions.md, ENTER.AS, and the sequencing of
outcomes. -/

namespace Sys2Proof.Machine

/-! ### BUF as data -/

/-- The byte at an address. -/
def Memory.read : Memory → Nat → Byte
  | [], _ => Memory.blank
  | (b, w) :: m, a => if a = b then w else Memory.read m a

/-- Writing one byte, keeping the canonical form. -/
def Memory.write : Memory → Nat → Byte → Memory
  | [], a, v => if v = Memory.blank then [] else [(a, v)]
  | (b, w) :: m, a, v =>
    if a < b then (if v = Memory.blank then (b, w) :: m else (a, v) :: (b, w) :: m)
    else if a = b then (if v = Memory.blank then m else (a, v) :: m)
    else (b, w) :: Memory.write m a v

/-- The canonical form: addresses strictly rising, no listed byte equal to the blank one. -/
def Memory.wf : Memory → Bool
  | [] => true
  | [(_, v)] => decide (v ≠ Memory.blank)
  | (a, v) :: (b, w) :: m =>
    decide (v ≠ Memory.blank) && decide (a < b) && Memory.wf ((b, w) :: m)

/-- Every listed address lies below a bound. -/
def Memory.below (n : Nat) (m : Memory) : Bool := m.all (fun c => decide (c.1 < n))

/-! ### Sequencing -/

/-- Go on with `f` after a next state; stop with a fault or a refusal. -/
def Outcome.andThen (o : Outcome) (f : State → Outcome) : Outcome :=
  match o with
  | .next s => f s
  | .fault r => .fault r
  | .refused r => .refused r

/-- The outcome of a step that reads BUF below `len`: an address at or above `C` does not exist (R83). -/
def State.readingBuf (s : State) (o : Outcome) : Outcome :=
  if s.len ≤ s.cfg.capacity then o else .fault .bufAddress

/-- Latch the result of a sub-operation issued on its own. -/
def State.latch (r : OpResult) (s : State) : State := { s with ret := r }

/-! ### Events (R12, R42) -/

/-- `emit E`: append an event to the output list. -/
def State.emit (e : Output) (s : State) : State := { s with out := s.out ++ [e] }

/-- The codes of R236. -/
def ErrKind.code : ErrKind → Nat
  | .bufferOverflow => 1
  | .checksumMismatch => 2
  | .unsupportedFieldLength => 3
  | .sinkSlotExhausted => 4
  | .timeout => 5
  | .outOfRange => 6
  | .valueOutOfRange => 7

/-- `emit REPORT(code, idx)` (R255). -/
def State.report (k : ErrKind) (idx : Option Nat) (s : State) : State :=
  s.emit (.report k.code idx)

/-- `emit SLOTWR(i, v)`: the slot takes the value (R73, R254). -/
def State.slotWrite (i : Nat) (v : SlotWord) (s : State) : State :=
  State.emit (.slotwr i v) { s with slots := s.slots.set i v }

/-! ### Frame buffer primitives -/

/-- `len <- 0` (R116). -/
def State.bufReset (s : State) : State := { s with len := 0 }

/-- The entry to AwaitStart (R147). -/
def State.enterAs (s : State) : State :=
  { State.bufReset { s with st := .awaitStart } with tlast := s.tnow }

/-- `BUF.APPEND(b, limit)` (R117): whether the byte was stored, and the state after. -/
def State.bufAppend (b : Byte) (limit : Nat) (s : State) : Bool × State :=
  if limit < s.len + 1 then (false, s)
  else (true, { s with buf := s.buf.write s.len b, len := s.len + 1 })

/-- `BUF.SLICE(from, to)` (R119). -/
def State.bufSlice (s : State) (lo hi : Nat) : List Byte :=
  (List.range' lo (hi - lo)).map (fun k => s.buf.read k)

/-! ### Errors (R12, R235 to R238, R250)

Taking an error is one operation: report it, then recover as its kind says. Nothing is saved and
nothing returns (R251). -/

/-- The recovery of R238. -/
def State.recover (k : ErrKind) (idx : Option Nat) (s : State) : State :=
  match k with
  | .bufferOverflow => s.enterAs
  | .checksumMismatch => s.enterAs
  | .timeout => s.enterAs
  | .unsupportedFieldLength =>
    match idx with
    | some i => { s with dec := s.dec.set i none }
    | none => s
  | .outOfRange =>
    match idx with
    | some i => { s with dec := s.dec.set i none }
    | none => s
  | .sinkSlotExhausted => s
  | .valueOutOfRange => s

/-- `raise <Kind>(idx)` (R12): the report, then the recovery. -/
def State.raise (k : ErrKind) (idx : Option Nat) (s : State) : State :=
  (s.report k idx).recover k idx

end Sys2Proof.Machine
end

