-- ==== Sys2Proof/Machine/Operands.lean ====
section
/-! DEFINITION. Operand forms: how the multi-byte quantities of spec/30_encoding.md R96 to R99 are
assembled from bytes, and the integer readings of spec/00_scope.md R11. -/

namespace Sys2Proof.Machine

/-- The stored checksum, low byte first (R65, R96). -/
def storedChecksum (lo hi : Byte) : CrcWord := hi ++ lo

/-- One more byte of a big-endian value, modulo 2^64 (R97, R193). -/
def accPush (acc : AccWord) (b : Byte) : AccWord := acc * 256 + b.setWidth 64

/-- `sext_(8p)` of the low `p` bytes, as a 64-bit pattern (R11, R195). -/
def sextBytes (p : Nat) (acc : AccWord) : AccWord := (acc.setWidth (8 * p)).signExtend 64

/-- The raw value of a payload of `p` bytes: sign-extended for a signed field of 1 to 7 bytes under
`SIGNEXT`, otherwise the 64-bit pattern as it is (R98, R195 to R197). -/
def rawValueOf (signExt signed : Bool) (p : Nat) (acc : AccWord) : AccWord :=
  if signed && signExt && decide (1 ≤ p) && decide (p ≤ 7) then sextBytes p acc else acc

/-- `u32(q)` (R11) at a slot's width: `q mod 2^SLOTW`. -/
def slotBits (w : Nat) (q : Int) : SlotWord := (q % 2 ^ w).toNat

/-- A time operand in the `TIMEW` bits of a time register (R26); an operand above them is taken modulo
2^TIMEW. DESIGN CHOICE, notes/assumptions/1.md. -/
def timeOf (w : Nat) (now : Time) : Time := now % 2 ^ w

/-- `(now - last) mod 2^TIMEW` (R149). -/
def elapsedOf (w : Nat) (now last : Time) : Nat := (((now : Int) - last) % 2 ^ w).toNat

end Sys2Proof.Machine
end

