-- ==== Sys2Proof/Machine/Flags.lean ====
section
/-! DEFINITION. The conditions the operations test. The block has no condition codes (R32): each
condition is computed where a rule tests it, and the one flag held is `dec[i].present` (R31). -/

namespace Sys2Proof.Machine

/-- `dec[i].present` (R31). -/
def State.present (s : State) (i : Nat) : Bool := (s.dec[i]?.join).isSome

/-- The time since the last entry to AwaitStart, modulo 2^TIMEW (R149). -/
def State.elapsed (s : State) : Nat := elapsedOf s.cfg.timeWidth s.tnow s.tlast

/-- The timeout's condition, strict (R149 a). -/
def State.timedOut (s : State) : Bool := decide (s.cfg.timeoutT < s.elapsed)

/-- The last bytes of the buffer are END (R153, R155). -/
def State.endMatched (s : State) : Bool :=
  decide (s.cfg.endMarker.length ≤ s.len) &&
  decide (s.bufSlice (s.len - s.cfg.endMarker.length) s.len = s.cfg.endMarker)

/-- The Value field's type classification, `(tl & 0x70) = 0x50` (R194). -/
def tagSigned (tag : Byte) : Bool := decide (tag &&& 0x70 = 0x50)

/-- A scaled value fits a slot of `SLOTW` bits, read as two's complement (R218). -/
def fitsSlot (w : Nat) (q : Int) : Bool :=
  decide (-(2 ^ (w - 1) : Int) ≤ q) && decide (q ≤ 2 ^ (w - 1) - 1)

end Sys2Proof.Machine
end

