-- ==== Sys2Proof/Machine/FrameBuffer.lean ====
section
/-! DEFINITION. The meanings of the frame buffer operations, spec/40_frame_buffer.md. -/

namespace Sys2Proof.Machine

/-- BUF.RESET (R116). -/
def execBufReset (s : State) : Outcome := .next s.bufReset

/-- BUF.APPEND (R117); the operand condition `limit <= C` is part of the rule. -/
def execBufAppend (b : Byte) (limit : Nat) (s : State) : Outcome :=
  if s.cfg.capacity < limit then .refused .appendLimit
  else
    match s.bufAppend b limit with
    | (true, t) => .next (t.latch .done)
    | (false, t) => .next (t.latch .overflow)

/-- A span operand lies within the valid bytes (R119, R132, I19). -/
def State.spanOk (s : State) (lo hi : Nat) : Bool := decide (lo ≤ hi) && decide (hi ≤ s.len)

/-- BUF.SLICE (R119). -/
def execBufSlice (lo hi : Nat) (s : State) : Outcome :=
  if s.spanOk lo hi then s.readingBuf (.next (s.latch (.bytes (s.bufSlice lo hi))))
  else .refused .badSpan

end Sys2Proof.Machine
end

