-- ==== Sys2Proof/Machine/Checksum.lean ====
section
/-! DEFINITION. The CRC-16/X-25 and the meanings of the checksum operations, spec/41_checksum.md. -/

namespace Sys2Proof.Machine

/-- One of the eight shifts of CRC.BYTE (R131). -/
def crcShift (c : CrcWord) : CrcWord :=
  if c.getLsbD 0 then (c >>> 1) ^^^ crcPoly else c >>> 1

/-- `n` shifts. -/
def crcShifts : Nat → CrcWord → CrcWord
  | 0, c => c
  | n + 1, c => crcShifts n (crcShift c)

/-- CRC.BYTE on the register (R131). -/
def crcByte (c : CrcWord) (b : Byte) : CrcWord := crcShifts 8 (c ^^^ b.setWidth 16)

/-- The register after a byte sequence, from the initial value (R132). -/
def crcRun (bs : List Byte) : CrcWord := bs.foldl crcByte crcInit

/-- The CRC-16/X-25 of a byte sequence (R132). -/
def crcOf (bs : List Byte) : CrcWord := crcRun bs ^^^ crcXorOut

/-- CRC.SPAN (R132): the result, and the state with the register left as the last byte leaves it. -/
def State.crcSpan (lo hi : Nat) (s : State) : CrcWord × State :=
  (crcOf (s.bufSlice lo hi), { s with crc := crcRun (s.bufSlice lo hi) })

/-- CRC.VERIFY (R134) where its two checksum bytes exist. -/
def State.crcVerify (s : State) : Bool × State :=
  let (computed, t) := s.crcSpan 0 (s.len - 2)
  (decide (computed = storedChecksum (t.buf.read (s.len - 2)) (t.buf.read (s.len - 1))), t)

/-- CRC.BYTE (R131). -/
def execCrcByte (b : Byte) (s : State) : Outcome := .next { s with crc := crcByte s.crc b }

/-- CRC.SPAN (R132). -/
def execCrcSpan (lo hi : Nat) (s : State) : Outcome :=
  if s.spanOk lo hi then
    s.readingBuf (.next ((s.crcSpan lo hi).2.latch (.crc (s.crcSpan lo hi).1)))
  else .refused .badSpan

/-- The checksum bytes `buf[len-2]` and `buf[len-1]` exist (R134's precondition, R83). -/
def State.hasChecksum (s : State) : Bool := decide (2 ≤ s.len) && decide (s.len ≤ s.cfg.capacity)

/-- CRC.VERIFY (R134). -/
def execCrcVerify (s : State) : Outcome :=
  if s.hasChecksum then .next (s.crcVerify.2.latch (.flag s.crcVerify.1)) else .fault .bufAddress

end Sys2Proof.Machine
end

