-- ==== Sys2Proof/Machine/MetricDecoder.lean ====
section
/-! DEFINITION. The metric decoder and the meanings of its operations, spec/43_metric_decoder.md. -/

namespace Sys2Proof.Machine

/-- What an operation that can `fail <Kind>` yields (R180). -/
inductive Res (α : Type) where
  | ok (a : α)
  | fail (k : ErrKind)
  deriving DecidableEq, Repr

/-- Go on with the result of an operation that succeeded; a failure abandons the rest (R180). -/
def onOk {α β : Type} (r : Res α × State) (f : α → State → Res β × State) : Res β × State :=
  match r with
  | (.ok a, s) => f a s
  | (.fail k, s) => (.fail k, s)

/-! ### MD.FIND (R181) -/

/-- The pattern stands at offset `o`. -/
def State.patternAt (s : State) (pat : List Byte) (o : Nat) : Bool :=
  decide (s.bufSlice o (o + pat.length) = pat)

/-- The lowest offset of a pattern in `buf[0..len)` (R181). -/
def State.findPattern (s : State) (pat : List Byte) : Option Nat :=
  (List.range (s.len + 1 - pat.length)).find? (s.patternAt pat)

/-! ### Reads and tags -/

/-- RD, the bounds-checked read (R183). -/
def State.rd (s : State) (k : Nat) : Res Byte :=
  if s.len ≤ k then .fail .outOfRange else .ok (s.buf.read k)

/-- The checks of TLV.TAG once its byte is read (R184): latch it, then `X`, then `L`. -/
def checkTag (tag : Byte) (s : State) : Res Nat × State :=
  if tagX tag then (.fail .unsupportedFieldLength, { s with tl := tag })
  else if tagL tag = 0 then (.fail .unsupportedFieldLength, { s with tl := tag })
  else (.ok (tagL tag).toNat, { s with tl := tag })

/-- Read the tag byte at the cursor and hand it to `f` (R184). -/
def atCursor {α : Type} (f : Byte → State → Res α × State) (s : State) : Res α × State :=
  match s.rd s.cur with
  | .ok tag => f tag s
  | .fail k => (.fail k, s)

/-! ### The field operations, each from its tag byte on -/

/-- Skipping a field (R187). -/
def skipField (tag : Byte) (s : State) : Res Unit × State :=
  onOk (checkTag tag s) fun l s => (.ok (), { s with cur := s.cur + l })

/-- Taking the byte after the tag (R190, R191). -/
def byteField (tag : Byte) (s : State) : Res Byte × State :=
  onOk (checkTag tag s) fun l s =>
    match s.rd (s.cur + 1) with
    | .ok b => (.ok b, { s with cur := s.cur + l })
    | .fail k => (.fail k, s)

/-- The accumulation loop of TLV.VAL: `n` bytes from offset `cur + k` on (R192, R193). -/
def accLoop : Nat → Nat → State → Res Unit × State
  | 0, _, s => (.ok (), s)
  | n + 1, k, s =>
    match s.rd (s.cur + k) with
    | .ok b => accLoop n (k + 1) { s with acc := accPush s.acc b }
    | .fail e => (.fail e, s)

/-- Taking the value (R192). -/
def valueField (tag : Byte) (s : State) : Res AccWord × State :=
  onOk (checkTag tag s) fun l s =>
    onOk (accLoop (l - 1) 0 { s with cur := s.cur + 1, acc := 0 }) fun _ s =>
      (.ok (rawValueOf s.cfg.signExt (tagSigned tag) (l - 1) s.acc), s)

/-! ### MD.DECODE and MD.ALL -/

/-- The five fields after a pattern (R198). -/
def fiveFields (s : State) : Res DecodedValue × State :=
  onOk (atCursor skipField s) fun _ s =>
  onOk (atCursor skipField s) fun _ s =>
  onOk (atCursor byteField s) fun u s =>
  onOk (atCursor byteField s) fun sc s =>
  onOk (atCursor valueField s) fun rv s =>
    (.ok { rawValue := rv, unit := u, scaler := sc }, s)

/-- The pattern of metric `i` (R36); a number that is no metric index has none. -/
def State.pattern (s : State) (i : Nat) : List Byte :=
  match s.cfg.metrics[i]? with
  | some m => m.pattern
  | none => []

/-- MD.DECODE (R198, R199). -/
def State.mdDecode (i : Nat) (s : State) : State :=
  match s.findPattern (s.pattern i) with
  | none => { s with dec := s.dec.set i none }
  | some o =>
    match fiveFields { s with cur := o + (s.pattern i).length } with
    | (.ok v, t) => { t with dec := t.dec.set i (some v) }
    | (.fail k, t) => t.raise k (some i)

/-- MD.ALL (R200). -/
def State.mdAll (s : State) : State :=
  (List.range s.cfg.metricCount).foldl (fun t i => t.mdDecode i) s

/-! ### The meanings -/

/-- The operand is a metric index. -/
def State.isMetric (s : State) (i : Nat) : Bool := decide (i < s.cfg.metricCount)

/-- Latch what a sub-operation that can fail returned. -/
def latchRes {α : Type} (f : α → OpResult) (r : Res α × State) : State :=
  match r with
  | (.ok a, s) => s.latch (f a)
  | (.fail k, s) => s.latch (.fail k)

/-- MD.FIND (R181). -/
def execMdFind (i : Nat) (s : State) : Outcome :=
  if s.isMetric i then
    s.readingBuf (.next (s.latch (.offset (s.findPattern (s.pattern i)))))
  else .refused .noSuchMetric

/-- RD (R183). -/
def execRd (k : Nat) (s : State) : Outcome := s.readingBuf (.next (latchRes .byte (s.rd k, s)))

/-- TLV.TAG (R184). -/
def execTlvTag (s : State) : Outcome :=
  s.readingBuf (.next (latchRes .fieldLength (atCursor checkTag s)))

/-- TLV.SKIP (R187). -/
def execTlvSkip (s : State) : Outcome :=
  s.readingBuf (.next (latchRes (fun _ => .done) (atCursor skipField s)))

/-- TLV.U8 (R190): the byte is unsigned. -/
def execTlvU8 (s : State) : Outcome :=
  s.readingBuf (.next (latchRes .byte (atCursor byteField s)))

/-- TLV.S8 (R191): the byte is read as a signed 8-bit number (R99). -/
def execTlvS8 (s : State) : Outcome :=
  s.readingBuf (.next (latchRes (fun b => .int b.toInt) (atCursor byteField s)))

/-- TLV.VAL (R192). -/
def execTlvVal (s : State) : Outcome :=
  s.readingBuf (.next (latchRes (fun v => .int v.toInt) (atCursor valueField s)))

/-- MD.DECODE (R198). -/
def execMdDecode (i : Nat) (s : State) : Outcome :=
  if s.isMetric i then s.readingBuf (.next (s.mdDecode i)) else .refused .noSuchMetric

/-- MD.ALL (R200). -/
def execMdAll (s : State) : Outcome := s.readingBuf (.next s.mdAll)

end Sys2Proof.Machine
end

