-- ==== Sys2Proof/Machine/Publisher.lean ====
section
/-! DEFINITION. The publisher and the meanings of its operations, spec/44_publisher.md. -/

namespace Sys2Proof.Machine

/-- `rv / d` rounded to the nearest integer, halves away from zero (R216, R217). -/
def roundDiv (rv : Int) (d : Nat) : Int :=
  let m := (2 * rv.natAbs + d) / (2 * d)
  if rv < 0 then -(m : Int) else (m : Int)

/-- PUB.SCALE on signed integers (R216): `rv * 10^(sc + 3)`, rounded. -/
def pubScale (rv sc : Int) : Int :=
  let e := sc + 3
  if 0 ≤ e then rv * 10 ^ e.toNat else roundDiv rv (10 ^ (-e).toNat)

/-- The scaled value of a DecodedValue; `unit` has no part in it (R215). -/
def DecodedValue.scaled (v : DecodedValue) : Int := pubScale v.rawValue.toInt v.scaler.toInt

/-- PUB.WRITE (R219): absent, then the slot index, then the range. -/
def State.pubWrite (i : Nat) (s : State) : State :=
  match s.dec[i]?.join with
  | none => s
  | some v =>
    if s.cfg.slotCount ≤ i then s.raise .sinkSlotExhausted (some i)
    else if fitsSlot s.cfg.slotWidth v.scaled then
      s.slotWrite i (slotBits s.cfg.slotWidth v.scaled)
    else s.raise .valueOutOfRange (some i)

/-- PUB.ALL (R223). -/
def State.pubAll (s : State) : State :=
  (List.range s.cfg.metricCount).foldl (fun t i => t.pubWrite i) s

/-- PUB.SCALE (R216). -/
def execPubScale (rv : AccWord) (sc : Byte) (s : State) : Outcome :=
  .next (s.latch (.int (pubScale rv.toInt sc.toInt)))

/-- PUB.WRITE (R219). -/
def execPubWrite (i : Nat) (s : State) : Outcome :=
  if s.isMetric i then .next (s.pubWrite i) else .refused .noSuchMetric

/-- PUB.ALL (R223). -/
def execPubAll (s : State) : Outcome := .next s.pubAll

end Sys2Proof.Machine
end

