-- ==== Sys2Proof/Machine/Framing.lean ====
section
/-! DEFINITION. The framing state machine and the meanings of its operations,
spec/42_framing_fsm.md, and RESET, spec/70_reset_and_hazards.md R270. -/

namespace Sys2Proof.Machine

/-- TMO.CHK (R149). -/
def State.tmoChk (s : State) : State := if s.timedOut then s.raise .timeout none else s

/-- RX.AS (R151). A byte can match only a byte START has (notes/assumptions/10.md). -/
def State.rxAs (b : Byte) (s : State) : Outcome :=
  if s.len < s.cfg.capacity then
    let t := { s with buf := s.buf.write s.len b }
    if s.cfg.startMarker[s.len]? = some b then
      if s.len + 1 = s.cfg.startMarker.length then
        .next { t with len := s.len + 1, st := .accumulateBody }
      else .next { t with len := s.len + 1 }
    else .next { t with len := 0 }
  else .fault .bufAddress

/-- RX.AB (R153, R154). -/
def State.rxAb (b : Byte) (s : State) : State :=
  match s.bufAppend b (s.cfg.capacity - s.cfg.reserve) with
  | (false, t) => t.raise .bufferOverflow none
  | (true, t) =>
    if t.endMatched then { t with st := .readTrailer, trem := BitVec.ofNat 2 t.cfg.trailerLen }
    else t

/-- RX.RT (R156). -/
def State.rxRt (b : Byte) (s : State) : State :=
  let t := (s.bufAppend b s.cfg.capacity).2
  if t.trem - 1 = 0 then { t with trem := t.trem - 1, st := .decode }
  else { t with trem := t.trem - 1 }

/-- RX(b), the dispatch on `st` (R150). -/
def State.rx (b : Byte) (s : State) : Outcome :=
  match s.st with
  | .awaitStart => s.rxAs b
  | .accumulateBody => .next (s.rxAb b)
  | .readTrailer => .next (s.rxRt b)
  | .decode => .refused .noByteInDecode

/-- DECODE (R158, R159), one indivisible step. -/
def State.decodeFrame (s : State) : Outcome :=
  if s.hasChecksum then
    match s.crcVerify with
    | (false, t) => .next (t.raise .checksumMismatch none)
    | (true, t) => .next t.mdAll.pubAll.enterAs
  else .fault .bufAddress

/-- DECODE runs at once when `st` is Decode (R160). -/
def State.settle (s : State) : Outcome := if s.st = .decode then s.decodeFrame else .next s

/-- The bytes of a tick, in arrival order, each with the DECODE it triggers (R148). -/
def State.feed : List Byte → State → Outcome
  | [], s => .next s
  | b :: bs, s => Outcome.andThen (Outcome.andThen (s.rx b) State.settle) (State.feed bs)

/-- The byte loop of TICK, `st` = Decode settled first (R148). -/
def State.deliver (bs : List Byte) (s : State) : Outcome :=
  Outcome.andThen s.settle (State.feed bs)

/-- `tnow <- now` (R148, R270). -/
def State.setTime (now : Time) (s : State) : State := { s with tnow := timeOf s.cfg.timeWidth now }

/-- TICK (R148). -/
def State.tick (now : Time) (bs : List Byte) (s : State) : Outcome :=
  (s.setTime now).tmoChk.deliver bs

/-! ### The meanings -/

/-- An operation whose selector holds the state `q` (R102). -/
def State.inState (s : State) (q : FrameState) (o : Outcome) : Outcome :=
  if s.st = q then o else .refused .selectorMismatch

/-- RESET (R270). The selector's state bits may be any. -/
def execReset (_ss : FrameState) (now : Time) (s : State) : Outcome :=
  .next { s.setTime now with
    st := .awaitStart, len := 0, tlast := timeOf s.cfg.timeWidth now,
    dec := List.replicate s.cfg.metricCount none }

/-- TICK (R148). The selector's state bits may be any. -/
def execTick (_ss : FrameState) (now : Time) (bs : List Byte) (s : State) : Outcome :=
  s.tick now bs

/-- RX.AS (R151). -/
def execRxAs (b : Byte) (s : State) : Outcome := s.inState .awaitStart (s.rxAs b)

/-- RX.AB (R153). -/
def execRxAb (b : Byte) (s : State) : Outcome := s.inState .accumulateBody (.next (s.rxAb b))

/-- RX.RT (R156). -/
def execRxRt (b : Byte) (s : State) : Outcome := s.inState .readTrailer (.next (s.rxRt b))

/-- RX.DE (R157): never enabled; the rule forbids giving it a meaning. -/
def execRxDe (_b : Byte) (_s : State) : Outcome := .refused .noByteInDecode

/-- DECODE (R158). -/
def execDecode (s : State) : Outcome := s.inState .decode s.decodeFrame

/-- SEL.NONE (R161): outside Decode the block does nothing until a byte or a tick arrives. Put forward
with a selector state that is not `st`, with `st` = Decode too, it still does nothing: DESIGN CHOICE,
notes/assumptions/10.md. -/
def execSelNone (_ss : FrameState) (s : State) : Outcome := .next s

/-- ENTER.AS (R147). -/
def execEnterAs (s : State) : Outcome := .next s.enterAs

/-- TMO.CHK (R149). -/
def execTmoChk (s : State) : Outcome := .next s.tmoChk

end Sys2Proof.Machine
end

