-- ==== Sys2Proof/Machine/Wire.lean ====
section
/-! DEFINITION. The meanings of the wire encodings: a tag/length byte met at the cursor of the metric
decoder (`TAG8`, spec/30_encoding.md R106), and the markers and the trailer arriving on the byte
stream (`MARK`, `TRAILER`, R86 to R88). -/

namespace Sys2Proof.Machine

/-- The operation of a field (R91), from its tag byte on, its result latched. -/
def State.takeField (f : Field) (tag : Byte) (s : State) : State :=
  match f with
  | .status => latchRes (fun _ => .done) (skipField tag s)
  | .time => latchRes (fun _ => .done) (skipField tag s)
  | .unit => latchRes .byte (byteField tag s)
  | .scaler => latchRes (fun b => .int b.toInt) (byteField tag s)
  | .value => latchRes (fun v => .int v.toInt) (valueField tag s)

/-- A tag byte at the cursor, read in the context of a field. -/
def State.tagged (f : Field) (tag : Byte) (s : State) : Outcome :=
  s.readingBuf (.next (s.takeField f tag))

/-- TLV.EXT (R186): refused in all five fields. -/
def execTlvExt (f : Field) (t : BitVec 3) (l : BitVec 4) (s : State) : Outcome :=
  s.tagged f (tagByte true t l)

/-- TLV.ZERO (R185): refused in all five fields. -/
def execTlvZero (f : Field) (t : BitVec 3) (s : State) : Outcome := s.tagged f (tagByte false t 0)

/-- TLV.SIGNED (R195). -/
def execTlvSigned (l : BitVec 4) (s : State) : Outcome := s.tagged .value (tagByte false 5 l)

/-- TLV.UNSIGNED.T0 (R194). -/
def execTlvUnsignedT0 (l : BitVec 4) (s : State) : Outcome := s.tagged .value (tagByte false 0 l)

/-- TLV.UNSIGNED.T1 (R194). -/
def execTlvUnsignedT1 (l : BitVec 4) (s : State) : Outcome := s.tagged .value (tagByte false 1 l)

/-- TLV.UNSIGNED.T2 (R194). -/
def execTlvUnsignedT2 (l : BitVec 4) (s : State) : Outcome := s.tagged .value (tagByte false 2 l)

/-- TLV.UNSIGNED.T3 (R194). -/
def execTlvUnsignedT3 (l : BitVec 4) (s : State) : Outcome := s.tagged .value (tagByte false 3 l)

/-- TLV.UNSIGNED.T4 (R194). -/
def execTlvUnsignedT4 (l : BitVec 4) (s : State) : Outcome := s.tagged .value (tagByte false 4 l)

/-- TLV.UNSIGNED.T6 (R194). -/
def execTlvUnsignedT6 (l : BitVec 4) (s : State) : Outcome := s.tagged .value (tagByte false 6 l)

/-- TLV.UNSIGNED.T7 (R194). -/
def execTlvUnsignedT7 (l : BitVec 4) (s : State) : Outcome := s.tagged .value (tagByte false 7 l)

/-- TLV.ANY (R187, R190, R191): the type code has no effect. -/
def execTlvAny (f : Field) (t : BitVec 3) (l : BitVec 4) (s : State) : Outcome :=
  s.tagged f (tagByte false t l)

/-- START on the wire (R86): its bytes are delivered in order. -/
def execStartMark (s : State) : Outcome := s.deliver s.cfg.startMarker

/-- END on the wire (R87): its bytes are delivered in order. -/
def execEndMark (s : State) : Outcome := s.deliver s.cfg.endMarker

/-- A trailer on the wire (R88): fillCount, checksum low byte, checksum high byte. -/
def execTrailer (fill lo hi : Byte) (s : State) : Outcome := s.deliver [fill, lo, hi]

end Sys2Proof.Machine
end

