-- ==== Sys2Proof/Machine/Fetch.lean ====
section
/-! DEFINITION. What the block runs next: the internal DECODE, the environment's next event, or
nothing (spec/30_encoding.md R102, spec/42_framing_fsm.md R160, R161), and the model's port for a
single operation word. -/

namespace Sys2Proof.Machine

/-- The word an input byte makes in a state (`ev` = `00`, R102). -/
def byteWord (st : FrameState) (b : Byte) : OpWord := encodeSel 0 st [b]

/-- The word an event makes in a state: its selector `ev || st` (R102) and its operands; a tick that
runs in its fine-grained steps begins with TMO.CHK (R9, R148). -/
def eventWord (st : FrameState) : Event → OpWord
  | .reset now => encodeSel 2 st (leBytes 8 now)
  | .tick now bs => encodeSel 1 st (leBytes 8 now ++ bs)
  | .tickSteps _ _ => encodeUop 1 []

/-- What a tick that runs in its fine-grained steps does before TMO.CHK: the time is sampled, and its
bytes wait to be consumed one by one (R148). The other events are taken whole by their operation. -/
def State.take (e : Event) (s : State) : State :=
  match e with
  | .reset _ => s
  | .tick _ _ => s
  | .tickSteps now bs => { s.setTime now with rest := bs }

/-- The word of the internal step (`ev` = `11`, R102). -/
def internalWord (st : FrameState) : OpWord := encodeSel 3 st []

/-- The next operation word and the state that has taken it: the port first, then DECODE when `st` is
Decode (R160), then the next byte of the tick in progress, then the environment's next event, and with
none the internal step that does nothing (R161). -/
def State.fetch (s : State) : OpWord × State :=
  match s.port with
  | some w => (w, { s with port := none })
  | none =>
    if s.st = .decode then (internalWord s.st, s)
    else
      match s.rest, s.pend with
      | b :: bs, _ => (byteWord s.st b, { s with rest := bs })
      | [], e :: es => (eventWord s.st e, State.take e { s with pend := es })
      | [], [] => (internalWord s.st, s)

/-- Put a word forward for the next step. Nothing else changes: `st` is the block's own (R17), so a
selector that holds another state is run where `st` is what it is. -/
def State.place (w : OpWord) (s : State) : State := { s with port := some w }

/-- Put a word of the opcode table forward. -/
def State.placeTableWord (nbits w : Nat) (s : State) : State :=
  match tableWord nbits w with
  | some ow => s.place ow
  | none => s

end Sys2Proof.Machine
end

