-- ==== Sys2Proof/Machine/Dispatch.lean ====
section
/-! DEFINITION. The one dispatch from an operation to its meaning. -/

namespace Sys2Proof.Machine

def exec (i : Instr) (s : State) : Host.Outcome State Fault Refusal :=
  match i with
  -- SEL4
  | .reset ss now => Sys2Proof.Machine.execReset ss now s
  | .tick ss now bs => Sys2Proof.Machine.execTick ss now bs s
  | .rxAs b => Sys2Proof.Machine.execRxAs b s
  | .rxAb b => Sys2Proof.Machine.execRxAb b s
  | .rxRt b => Sys2Proof.Machine.execRxRt b s
  | .rxDe b => Sys2Proof.Machine.execRxDe b s
  | .decode => Sys2Proof.Machine.execDecode s
  | .selNone ss => Sys2Proof.Machine.execSelNone ss s
  -- UOP
  | .enterAs => Sys2Proof.Machine.execEnterAs s
  | .tmoChk => Sys2Proof.Machine.execTmoChk s
  | .bufReset => Sys2Proof.Machine.execBufReset s
  | .bufAppend b limit => Sys2Proof.Machine.execBufAppend b limit s
  | .bufSlice lo hi => Sys2Proof.Machine.execBufSlice lo hi s
  | .crcByte b => Sys2Proof.Machine.execCrcByte b s
  | .crcSpan lo hi => Sys2Proof.Machine.execCrcSpan lo hi s
  | .crcVerify => Sys2Proof.Machine.execCrcVerify s
  | .mdFind idx => Sys2Proof.Machine.execMdFind idx s
  | .rd k => Sys2Proof.Machine.execRd k s
  | .tlvTag => Sys2Proof.Machine.execTlvTag s
  | .tlvSkip => Sys2Proof.Machine.execTlvSkip s
  | .tlvU8 => Sys2Proof.Machine.execTlvU8 s
  | .tlvS8 => Sys2Proof.Machine.execTlvS8 s
  | .tlvVal => Sys2Proof.Machine.execTlvVal s
  | .mdDecode idx => Sys2Proof.Machine.execMdDecode idx s
  | .mdAll => Sys2Proof.Machine.execMdAll s
  | .pubScale rv sc => Sys2Proof.Machine.execPubScale rv sc s
  | .pubWrite idx => Sys2Proof.Machine.execPubWrite idx s
  | .pubAll => Sys2Proof.Machine.execPubAll s
  -- TAG8
  | .tlvExt f t l => Sys2Proof.Machine.execTlvExt f t l s
  | .tlvZero f t => Sys2Proof.Machine.execTlvZero f t s
  | .tlvSigned l => Sys2Proof.Machine.execTlvSigned l s
  | .tlvUnsignedT0 l => Sys2Proof.Machine.execTlvUnsignedT0 l s
  | .tlvUnsignedT1 l => Sys2Proof.Machine.execTlvUnsignedT1 l s
  | .tlvUnsignedT2 l => Sys2Proof.Machine.execTlvUnsignedT2 l s
  | .tlvUnsignedT3 l => Sys2Proof.Machine.execTlvUnsignedT3 l s
  | .tlvUnsignedT4 l => Sys2Proof.Machine.execTlvUnsignedT4 l s
  | .tlvUnsignedT6 l => Sys2Proof.Machine.execTlvUnsignedT6 l s
  | .tlvUnsignedT7 l => Sys2Proof.Machine.execTlvUnsignedT7 l s
  | .tlvAny f t l => Sys2Proof.Machine.execTlvAny f t l s
  -- MARK and TRAILER
  | .startMark => Sys2Proof.Machine.execStartMark s
  | .endMark => Sys2Proof.Machine.execEndMark s
  | .trailer fill lo hi => Sys2Proof.Machine.execTrailer fill lo hi s

end Sys2Proof.Machine
end

