-- ==== Sys2Proof/Machine/Step.lean ====
section
/-! DEFINITION. One step of the machine (spec/00_scope.md R13), and the host's way to put one
operation forward. -/

namespace Sys2Proof.Machine

/-- One step: under a configuration R7 allows, fetch the next operation word, decode it, run it. -/
def step (s : State) : Host.Outcome State Fault Refusal :=
  if s.cfg.wf then
    match decode s.fetch.1 with
    | .instr i => exec i s.fetch.2
    | .reject e => .refused (.undecodable e)
  else .refused .badConfig

/-- The state whose next step runs the table word `w` (notes/assumptions/7.md). -/
def State.withFetchWord (s : State) (nbits w : Nat) : State := s.placeTableWord nbits w

end Sys2Proof.Machine
end

