-- ==== Sys2Proof/Safety.lean ====
section
/-! DEFINITION. The terms the claims use: what a sane state is, the framing invariant of
spec/10_state.md R44, what a state shows that the rules may read (R271), sequences of operations, and
the CRC in the parameter form of spec/41_checksum.md R133. -/

namespace Sys2Proof.Machine

/-! ### Invariants -/

/-- What every step keeps, whatever operation it runs: a configuration R7 allows, BUF in its canonical
form and within its `C` addresses (R43, R60), `0 <= len <= C` (R22), `M` entries of `dec` and `N`
slots (R20), and every time register and slot within its width (R6). -/
abbrev State.Sane (s : State) : Prop :=
  s.cfg.wf = true ∧ Memory.wf s.buf = true ∧ Memory.below s.cfg.capacity s.buf = true ∧
  s.len ≤ s.cfg.capacity ∧ s.dec.length = s.cfg.metricCount ∧ s.slots.length = s.cfg.slotCount ∧
  s.tlast < 2 ^ s.cfg.timeWidth ∧ s.tnow < 2 ^ s.cfg.timeWidth ∧
  ∀ v ∈ s.slots, v < 2 ^ s.cfg.slotWidth

/-- R44, per framing state. -/
abbrev State.Framed (s : State) : Prop :=
  (s.st = .awaitStart → s.len ≤ 7 ∧ s.bufSlice 0 s.len = startBytes.take s.len) ∧
  (s.st = .accumulateBody →
    8 ≤ s.len ∧ s.len ≤ s.cfg.capacity - s.cfg.reserve ∧ s.bufSlice 0 8 = startBytes ∧
    (13 ≤ s.len → s.bufSlice (s.len - 5) s.len ≠ endBytes)) ∧
  (s.st = .readTrailer →
    s.trem ≠ 0 ∧ s.bufSlice 0 8 = startBytes ∧
    13 ≤ s.len - (3 - s.trem.toNat) ∧
    s.len - (3 - s.trem.toNat) ≤ s.cfg.capacity - s.cfg.reserve ∧
    s.bufSlice (s.len - (3 - s.trem.toNat) - 5) (s.len - (3 - s.trem.toNat)) = endBytes) ∧
  (s.st = .decode →
    s.trem = 0 ∧ 16 ≤ s.len ∧ s.len ≤ s.cfg.capacity ∧ s.bufSlice 0 8 = startBytes ∧
    s.bufSlice (s.len - 8) (s.len - 3) = endBytes)

/-- A state of a run that only the environment's events drive (R16, R17): sane, with this hardware's
markers, framed as R44 says, and no operation word put forward. -/
abbrev State.EventDriven (s : State) : Prop :=
  s.Sane ∧ s.cfg.Given ∧ s.Framed ∧ s.port = none

/-! ### What the rules may read -/

/-- The buffer holds exactly these bytes. -/
abbrev State.Holds (s : State) (bs : List Byte) : Prop :=
  s.len = bs.length ∧ s.bufSlice 0 s.len = bs

/-- After a store of one byte, every address reads as before but the one stored to. -/
abbrev StoredByte (m n : Memory) (a : Nat) (b : Byte) : Prop :=
  ∀ k, Memory.read n k = if k = a then b else Memory.read m k

/-- Two states that agree on everything R271 does not call unspecified: `buf` below `len`, and `trem`
in ReadTrailer only. The scratch registers, `dec`, the slots and the events already emitted may
differ. -/
abbrev State.Alike (s t : State) : Prop :=
  s.cfg = t.cfg ∧ s.st = t.st ∧ s.len = t.len ∧ s.bufSlice 0 s.len = t.bufSlice 0 t.len ∧
  (s.st = .readTrailer → s.trem = t.trem) ∧ s.tlast = t.tlast ∧ s.tnow = t.tnow ∧
  s.rest = t.rest ∧ s.pend = t.pend ∧ s.port = t.port

/-! ### Sequences and frames -/

/-- Operations one after the other. -/
def execAll : List Instr → State → Outcome
  | [], s => .next s
  | i :: is, s => Outcome.andThen (exec i s) (execAll is)

/-- The bytes of a frame up to and with END (R85). -/
def frameHead (c : Config) (body : List Byte) : List Byte := c.startMarker ++ body ++ c.endMarker

/-- R90: END occurs in `START || BODY || END` nowhere but at its end. -/
abbrev EndOnlyAtEnd (c : Config) (body : List Byte) : Prop :=
  ∀ k < (frameHead c body).length,
    ((frameHead c body).take k).drop (k - c.endMarker.length) ≠ c.endMarker

/-- The slots after a list of events: each SLOTWR in order, the last one to a slot wins (R16, R76). -/
def applyWrites (slots : List SlotWord) : List Output → List SlotWord
  | [] => slots
  | .slotwr i v :: es => applyWrites (slots.set i v) es
  | .report _ _ :: es => applyWrites slots es

/-! ### Fields of a metric entry (R91) -/

/-- The value of bytes in address order, the first most significant (R66, R97). -/
def beNat (bs : List Byte) : Nat := bs.foldl (fun v b => v * 256 + b.toNat) 0

/-- The raw value that R98 gives a Value field with this tag byte and these payload bytes. -/
def valueOf (signExt : Bool) (tag : Byte) (bs : List Byte) : Int :=
  if tagT tag = 5 ∧ signExt = true ∧ 1 ≤ bs.length ∧ bs.length ≤ 7 then
    if beNat bs < 2 ^ (8 * bs.length - 1) then (beNat bs : Int)
    else (beNat bs : Int) - 2 ^ (8 * bs.length)
  else (BitVec.ofNat 64 (beNat bs)).toInt

/-- The tag byte at an offset is there and is neither TLV.EXT nor TLV.ZERO (R184). -/
abbrev State.GoodTag (s : State) (p : Nat) : Prop :=
  p < s.len ∧ tagX (s.buf.read p) = false ∧ tagL (s.buf.read p) ≠ 0

/-- The offset of the next field's tag byte (R93). -/
def State.nextField (s : State) (p : Nat) : Nat := p + (tagL (s.buf.read p)).toNat

/-- The code of R236 for the failure that a field meets at its tag byte's offset, if any (R184, R187,
R190 to R192): 6 for a tag byte beyond the frame, 3 for `X` = 1 or `L` = 0, and 6 for a Unit, Scaler or
Value byte beyond the frame. -/
def State.fieldFailure (s : State) (f : Field) (p : Nat) : Option Nat :=
  if s.len ≤ p then some 6
  else if tagX (s.buf.read p) = true ∨ tagL (s.buf.read p) = 0 then some 3
  else
    match f with
    | .status => none
    | .time => none
    | .unit => if s.len ≤ p + 1 then some 6 else none
    | .scaler => if s.len ≤ p + 1 then some 6 else none
    | .value => if s.len < s.nextField p then some 6 else none

/-- The first failure that consecutive fields meet, the first tag byte at an offset (R199). -/
def State.firstFailure (s : State) : List Field → Nat → Option Nat
  | [], _ => none
  | f :: fs, p =>
    match s.fieldFailure f p with
    | some code => some code
    | none => s.firstFailure fs (s.nextField p)

/-- The five fields of a metric entry, in order (R91). -/
def entryFields : List Field := [.status, .time, .unit, .scaler, .value]

/-- The pattern stands at an offset within `buf[0..len)`, and at no lower one (R181). -/
abbrev State.FirstAt (s : State) (pat : List Byte) (o : Nat) : Prop :=
  o + pat.length ≤ s.len ∧ s.bufSlice o (o + pat.length) = pat ∧
  ∀ p < o, s.bufSlice p (p + pat.length) ≠ pat

/-- The pattern stands nowhere in `buf[0..len)` (R181). -/
abbrev State.Nowhere (s : State) (pat : List Byte) : Prop :=
  ∀ p < s.len + 1 - pat.length, s.bufSlice p (p + pat.length) ≠ pat

/-! ### The checksum in the parameter form (R133) -/

/-- One of the eight shifts, bit 15 first. -/
def crcParamShift (c : CrcWord) : CrcWord :=
  if c.getLsbD 15 then (c <<< 1) ^^^ 0x1021 else c <<< 1

/-- `n` shifts. -/
def crcParamShifts : Nat → CrcWord → CrcWord
  | 0, c => c
  | n + 1, c => crcParamShifts n (crcParamShift c)

/-- One byte: bit-reversed, into the top 8 bits, then eight shifts. -/
def crcParamByte (c : CrcWord) (b : Byte) : CrcWord :=
  crcParamShifts 8 (c ^^^ (b.reverse.setWidth 16 <<< 8))

/-- CRC-16/X-25 from its parameters: poly 0x1021, init 0xFFFF, both reflected, final XOR 0xFFFF. -/
def crcParam (bs : List Byte) : CrcWord := (bs.foldl crcParamByte 0xFFFF).reverse ^^^ 0xFFFF

end Sys2Proof.Machine
end

