-- ==== Sys2Proof/Certificates/Slice0/Obligations.lean ====
section
/-! DEFINITION. The statements for the provers. -/

open Sys2Proof Sys2Proof.Machine

/-! ### Encodings and the step -/

/-- Decoding the word of a well-formed operation gives the operation back, with every operand at
every value. -/
def Obligations.EncodeThenDecodeGivesTheOperation : Prop :=
  ∀ i : Instr, i.wf = true → decode (encode i) = .instr i

/-- Each word has one meaning: what the decoder accepts is the encoding of a well-formed operation. -/
def Obligations.DecodedWordIsTheEncodingOfItsOperation : Prop :=
  ∀ (w : OpWord) (i : Instr), decode w = .instr i → i.wf = true ∧ encode i = w

/-- Words written out from the tables of R102, R105, R106, R86, R87 and R88. The operand bytes after
the table's bits are the model's layout (notes/assumptions/6.md). -/
def Obligations.WrittenOutWordsDecodeToTheirRows : Prop :=
  decode ⟨.sel4, [0b1000, 0xF4, 0x01, 0x00, 0x00, 0x00, 0x00, 0x00, 0x00]⟩ =
    .instr (.reset .awaitStart 500) ∧
  decode ⟨.sel4, [0b0110, 0x05, 0x00, 0x00, 0x00, 0x00, 0x00, 0x00, 0x00, 0x1B]⟩ =
    .instr (.tick .readTrailer 5 [0x1B]) ∧
  decode ⟨.sel4, [0b0001, 0x2C]⟩ = .instr (.rxAb 0x2C) ∧
  decode ⟨.sel4, [0b1111]⟩ = .instr .decode ∧
  decode ⟨.uop, [0b00000]⟩ = .instr .enterAs ∧
  decode ⟨.uop, [0b00111]⟩ = .instr .crcVerify ∧
  decode ⟨.uop, [0b01111, 0x02, 0x00]⟩ = .instr (.mdDecode 2) ∧
  decode ⟨.uop, [0b10011]⟩ = .instr .pubAll ∧
  decode ⟨.tag8, [0b01010011, 0]⟩ = .instr (.tlvSigned 3) ∧
  decode ⟨.tag8, [0b01100010, 0]⟩ = .instr (.tlvUnsignedT6 2) ∧
  decode ⟨.tag8, [0b01100010, 3]⟩ = .instr (.tlvAny .unit 6 2) ∧
  decode ⟨.tag8, [0b11010011, 0]⟩ = .instr (.tlvExt .value 5 3) ∧
  decode ⟨.tag8, [0b01010000, 4]⟩ = .instr (.tlvZero .scaler 5) ∧
  decode ⟨.mark, [0x1B, 0x1B, 0x1B, 0x1B, 0x01, 0x01, 0x01, 0x01]⟩ = .instr .startMark ∧
  decode ⟨.mark, [0x1B, 0x1B, 0x1B, 0x1B, 0x1A]⟩ = .instr .endMark ∧
  decode ⟨.trailer, [0x00, 0x82, 0xDA]⟩ = .instr (.trailer 0x00 0x82 0xDA)

/-- When the word put forward decodes to an operation, the step is that operation's meaning, on the
state with the port emptied. -/
def Obligations.StepRunsTheDecodedOperation : Prop :=
  ∀ (s : State) (w : OpWord) (i : Instr),
    s.cfg.wf = true → s.port = some w → decode w = .instr i →
    step s = exec i { s with port := none }

/-- With no word put forward, `st`, the bytes of a tick in progress and the environment's next event
select the operation that runs. The order is the model's reading of R160 and R161, and the two forms of
a tick are those of R9 (notes/assumptions/9.md, 11.md). -/
def Obligations.EventAndFramingStateSelectTheOperation : Prop :=
  ∀ s : State, s.cfg.wf = true → s.port = none →
    (s.st = .decode → step s = exec .decode s) ∧
    (s.st ≠ .decode →
      (∀ b bs, s.rest = b :: bs →
        (s.st = .awaitStart → step s = exec (.rxAs b) { s with rest := bs }) ∧
        (s.st = .accumulateBody → step s = exec (.rxAb b) { s with rest := bs }) ∧
        (s.st = .readTrailer → step s = exec (.rxRt b) { s with rest := bs })) ∧
      (s.rest = [] →
        (s.pend = [] → step s = exec (.selNone s.st) s) ∧
        (∀ now es, s.pend = .reset now :: es →
          step s = exec (.reset s.st now) { s with pend := es }) ∧
        (∀ now bs es, s.pend = .tick now bs :: es →
          step s = exec (.tick s.st now bs) { s with pend := es }) ∧
        (∀ now bs es, s.pend = .tickSteps now bs :: es →
          step s = exec .tmoChk
            { s with tnow := now % 2 ^ s.cfg.timeWidth, rest := bs, pend := es })))

/-- A configuration in which no frame can complete, with a reservation that is not the trailer's
length, or with an empty pattern is refused (R7, I20; R7 is marked [derived] by the spec). -/
def Obligations.IllegalConfigurationIsRefused : Prop :=
  ∀ s : State,
    (s.cfg.capacity < s.cfg.startMarker.length + s.cfg.endMarker.length + s.cfg.trailerLen ∨
      s.cfg.reserve ≠ s.cfg.trailerLen ∨ ∃ m ∈ s.cfg.metrics, m.pattern = []) →
    step s = .refused .badConfig

/-! ### Reset, ENTER.AS, the timeout -/

/-- RESET, from every state, with any `now` of `TIMEW` bits (R270). -/
def Obligations.ResetWritesExactlyWhatItsRuleNames : Prop :=
  ∀ (s : State) (ss : FrameState) (now : Time), now < 2 ^ s.cfg.timeWidth →
    exec (.reset ss now) s = .next
      { s with
        tnow := now, st := .awaitStart, len := 0, tlast := now,
        dec := List.replicate s.cfg.metricCount none }

/-- The state after reset meets the invariants of every step. The values of the unspecified elements
are the model's choice (notes/assumptions/2.md, 4.md, 5.md). -/
def Obligations.ResetStateIsEventDriven : Prop := State.reset.EventDriven

/-- ENTER.AS (R147). -/
def Obligations.EnterAsWritesStateLengthAndTime : Prop :=
  ∀ s : State, exec .enterAs s = .next { s with st := .awaitStart, len := 0, tlast := s.tnow }

/-- TMO.CHK, strict and modulo 2^TIMEW (R149). -/
def Obligations.TimeoutFiresOnlyAfterMoreThanTheThreshold : Prop :=
  ∀ s : State,
    (((s.tnow : Int) - s.tlast) % 2 ^ s.cfg.timeWidth ≤ s.cfg.timeoutT →
      exec .tmoChk s = .next s) ∧
    ((s.cfg.timeoutT : Int) < ((s.tnow : Int) - s.tlast) % 2 ^ s.cfg.timeWidth →
      exec .tmoChk s = .next
        { s with
          st := .awaitStart, len := 0, tlast := s.tnow, out := s.out ++ [.report 5 none] })

/-! ### Frame buffer -/

/-- BUF.RESET (R116). -/
def Obligations.BufResetClearsTheCursorOnly : Prop :=
  ∀ s : State, exec .bufReset s = .next { s with len := 0 }

/-- BUF.APPEND (R117): the byte is stored at `len`, or nothing is. -/
def Obligations.BufAppendStoresAtTheCursorOrNothing : Prop :=
  ∀ (s : State) (b : Byte) (limit : Nat), s.Sane → limit ≤ s.cfg.capacity →
    (limit < s.len + 1 → exec (.bufAppend b limit) s = .next { s with ret := .overflow }) ∧
    (s.len + 1 ≤ limit → ∃ t,
      exec (.bufAppend b limit) s = .next t ∧
      t = { s with buf := t.buf, len := s.len + 1, ret := .done } ∧
      StoredByte s.buf t.buf s.len b)

/-- BUF.SLICE (R119): the bytes of the span, in order. -/
def Obligations.BufSliceReadsTheSpan : Prop :=
  ∀ (s : State) (lo hi : Nat), lo ≤ hi → hi ≤ s.len → s.len ≤ s.cfg.capacity →
    ∃ bs : List Byte,
      exec (.bufSlice lo hi) s = .next { s with ret := .bytes bs } ∧
      bs.length = hi - lo ∧ ∀ k < hi - lo, bs[k]? = some (s.buf.read (lo + k))

/-! ### Checksum -/

/-- CRC.BYTE in the table form that R131 allows ("A model may replace the loop by a 256-entry table";
R131 is marked [derived] by the spec). -/
def Obligations.CrcByteEqualsTheTableForm : Prop :=
  ∀ (s : State) (b : Byte),
    exec (.crcByte b) s = .next
      { s with
        crc := (s.crc >>> 8) ^^^ crcByte ((s.crc ^^^ b.setWidth 16) &&& 0xFF) 0 }

/-- CRC.SPAN gives the CRC-16/X-25 of the span in the form of its parameters (R133: "This form and rule
R132 return the same value on every input", which the spec marks as its own general knowledge). -/
def Obligations.CrcSpanEqualsTheParameterForm : Prop :=
  ∀ (s : State) (lo hi : Nat), lo ≤ hi → hi ≤ s.len → s.len ≤ s.cfg.capacity →
    ∃ t, exec (.crcSpan lo hi) s = .next t ∧
      t = { s with crc := t.crc, ret := .crc (crcParam (s.bufSlice lo hi)) } ∧
      t.crc ^^^ 0xFFFF = crcParam (s.bufSlice lo hi)

/-- CRC.VERIFY compares the CRC of all but the last two bytes with those two, low byte first (R134). -/
def Obligations.CrcVerifyComparesWithTheLittleEndianTrailer : Prop :=
  ∀ s : State, 2 ≤ s.len → s.len ≤ s.cfg.capacity →
    ∃ t, exec .crcVerify s = .next t ∧
      t = { s with
        crc := t.crc,
        ret := .flag (decide ((crcParam (s.bufSlice 0 (s.len - 2))).toNat =
          (s.buf.read (s.len - 2)).toNat + 256 * (s.buf.read (s.len - 1)).toNat)) }

/-- Any change of the two stored checksum bytes of a frame that verifies is seen (R136, marked [derived]
by the spec, says it of a single bit). -/
def Obligations.CorruptedChecksumBytesFailVerification : Prop :=
  ∀ (s t : State) (m : Memory), 2 ≤ s.len → s.len ≤ s.cfg.capacity →
    exec .crcVerify s = .next t → t.ret = .flag true →
    (∀ k < s.len - 2, m.read k = s.buf.read k) →
    (m.read (s.len - 2) ≠ s.buf.read (s.len - 2) ∨
      m.read (s.len - 1) ≠ s.buf.read (s.len - 1)) →
    ∃ u, exec .crcVerify { s with buf := m } = .next u ∧ u.ret = .flag false

/-- The CRC of a whole frame that verifies, checksum bytes included, is 0x0F47 (vector V-C10). -/
def Obligations.WholeValidFrameHasTheConstantResidue : Prop :=
  ∀ s t : State, 2 ≤ s.len → s.len ≤ s.cfg.capacity →
    exec .crcVerify s = .next t → t.ret = .flag true →
    ∃ u, exec (.crcSpan 0 s.len) s = .next u ∧ u.ret = .crc 0x0F47

/-! ### Framing: one byte -/

/-- RX.AS (R151). -/
def Obligations.RxAsMatchesOneStartByteOrStartsOver : Prop :=
  ∀ (s : State) (b : Byte), s.Sane → s.st = .awaitStart → s.len ≤ 7 →
    ∃ t, exec (.rxAs b) s = .next t ∧ StoredByte s.buf t.buf s.len b ∧
      (s.cfg.startMarker[s.len]? = some b → s.len < 7 →
        t = { s with buf := t.buf, len := s.len + 1 }) ∧
      (s.cfg.startMarker[s.len]? = some b → s.len = 7 →
        t = { s with buf := t.buf, len := 8, st := .accumulateBody }) ∧
      (s.cfg.startMarker[s.len]? ≠ some b → t = { s with buf := t.buf, len := 0 })

/-- RX.AB (R153, R154): overflow before the store, then the END test on the last five bytes. -/
def Obligations.RxAbOverflowsOrAppendsAndTestsEnd : Prop :=
  ∀ (s : State) (b : Byte), s.Sane → s.st = .accumulateBody → 8 ≤ s.len →
    (s.cfg.capacity - s.cfg.reserve < s.len + 1 →
      exec (.rxAb b) s = .next
        { s with
          st := .awaitStart, len := 0, tlast := s.tnow, out := s.out ++ [.report 1 none] }) ∧
    (s.len + 1 ≤ s.cfg.capacity - s.cfg.reserve → ∃ t,
      exec (.rxAb b) s = .next t ∧ StoredByte s.buf t.buf s.len b ∧
      (t.bufSlice (s.len + 1 - 5) (s.len + 1) = s.cfg.endMarker →
        t = { s with
          buf := t.buf, len := s.len + 1, st := .readTrailer,
          trem := BitVec.ofNat 2 s.cfg.trailerLen }) ∧
      (t.bufSlice (s.len + 1 - 5) (s.len + 1) ≠ s.cfg.endMarker →
        t = { s with buf := t.buf, len := s.len + 1 }))

/-- RX.RT (R156): the byte is stored unexamined; the last one enters Decode. -/
def Obligations.RxRtStoresAndCountsDown : Prop :=
  ∀ (s : State) (b : Byte), s.Sane → s.st = .readTrailer → s.trem ≠ 0 →
    s.len + s.trem.toNat ≤ s.cfg.capacity →
    ∃ t, exec (.rxRt b) s = .next t ∧ StoredByte s.buf t.buf s.len b ∧
      (s.trem = 1 →
        t = { s with buf := t.buf, len := s.len + 1, trem := 0, st := .decode }) ∧
      (s.trem ≠ 1 → t = { s with buf := t.buf, len := s.len + 1, trem := s.trem - 1 })

/-- Where an operation stops: an operand outside its rule's condition, a selector of another state, or
an address BUF does not have; with `len` beyond `C`, every operation that reads BUF below `len`. The
names and the stops outside R44 are the model's (notes/assumptions/10.md). -/
def Obligations.OperationsStopOutsideTheirConditions : Prop :=
  ∀ s : State,
    (∀ b limit, s.cfg.capacity < limit → exec (.bufAppend b limit) s = .refused .appendLimit) ∧
    (∀ lo hi, (hi < lo ∨ s.len < hi) →
      exec (.bufSlice lo hi) s = .refused .badSpan ∧
      exec (.crcSpan lo hi) s = .refused .badSpan) ∧
    (∀ i, s.cfg.metricCount ≤ i →
      exec (.mdFind i) s = .refused .noSuchMetric ∧
      exec (.mdDecode i) s = .refused .noSuchMetric ∧
      exec (.pubWrite i) s = .refused .noSuchMetric) ∧
    (s.st ≠ .awaitStart → ∀ b, exec (.rxAs b) s = .refused .selectorMismatch) ∧
    (s.st ≠ .accumulateBody → ∀ b, exec (.rxAb b) s = .refused .selectorMismatch) ∧
    (s.st ≠ .readTrailer → ∀ b, exec (.rxRt b) s = .refused .selectorMismatch) ∧
    (s.st ≠ .decode → exec .decode s = .refused .selectorMismatch) ∧
    ((s.len < 2 ∨ s.cfg.capacity < s.len) →
      exec .crcVerify s = .fault .bufAddress ∧
      (s.st = .decode → exec .decode s = .fault .bufAddress)) ∧
    (s.cfg.capacity ≤ s.len → s.st = .awaitStart → ∀ b, exec (.rxAs b) s = .fault .bufAddress) ∧
    (s.cfg.capacity < s.len →
      (∀ op ∈ [Instr.tlvTag, .tlvSkip, .tlvU8, .tlvS8, .tlvVal, .mdAll],
        exec op s = .fault .bufAddress) ∧
      (∀ k, exec (.rd k) s = .fault .bufAddress) ∧
      (∀ lo hi, lo ≤ hi → hi ≤ s.len →
        exec (.bufSlice lo hi) s = .fault .bufAddress ∧
        exec (.crcSpan lo hi) s = .fault .bufAddress) ∧
      (∀ i < s.cfg.metricCount,
        exec (.mdFind i) s = .fault .bufAddress ∧ exec (.mdDecode i) s = .fault .bufAddress) ∧
      (∀ (f : Field) (tag : Byte), exec (decodeTag f tag) s = .fault .bufAddress))

/-- RX.DE has no meaning (R157). -/
def Obligations.RxDeIsRefused : Prop :=
  ∀ (s : State) (b : Byte), exec (.rxDe b) s = .refused .noByteInDecode

/-- SEL.NONE: the block does nothing (R161). With a selector state that is not `st`, and where `st` is
Decode, that is the model's choice (notes/assumptions/10.md). -/
def Obligations.SelNoneChangesNothing : Prop :=
  ∀ (s : State) (ss : FrameState), exec (.selNone ss) s = .next s

/-- After a partial START a full START that follows at once is missed, silently (R152 c, marked
[derived] by the spec, and R280). Delivering START as one row is the model's form
(notes/assumptions/13.md). -/
def Obligations.StartRightAfterPartialStartIsMissed : Prop :=
  ∀ s : State, s.Sane → s.cfg.Given → s.st = .awaitStart → 1 ≤ s.len → s.len ≤ 7 →
    ∃ t, exec .startMark s = .next t ∧ t = { s with buf := t.buf, len := 0 }

/-! ### DECODE -/

/-- DECODE of a frame whose checksum is wrong (R240): one report, no slot, back to AwaitStart. -/
def Obligations.DecodeDiscardsFrameOnChecksumMismatch : Prop :=
  ∀ s : State, s.st = .decode → 2 ≤ s.len → s.len ≤ s.cfg.capacity →
    (crcParam (s.bufSlice 0 (s.len - 2))).toNat ≠
      (s.buf.read (s.len - 2)).toNat + 256 * (s.buf.read (s.len - 1)).toNat →
    ∃ t, exec .decode s = .next t ∧
      t = { s with
        st := .awaitStart, len := 0, tlast := s.tnow, crc := t.crc,
        out := s.out ++ [.report 2 none] }

/-- DECODE of a frame whose checksum is right is CRC.VERIFY, MD.ALL, PUB.ALL, ENTER.AS in order; only
CRC.VERIFY's own result latch is not written. -/
def Obligations.DecodeOfValidFrameIsDecodePublishEnter : Prop :=
  ∀ s : State, s.st = .decode → 2 ≤ s.len → s.len ≤ s.cfg.capacity →
    (crcParam (s.bufSlice 0 (s.len - 2))).toNat =
      (s.buf.read (s.len - 2)).toNat + 256 * (s.buf.read (s.len - 1)).toNat →
    ∃ t u, exec .decode s = .next t ∧
      execAll [.crcVerify, .mdAll, .pubAll, .enterAs] s = .next u ∧ t = { u with ret := s.ret }

/-- DECODE always ends in AwaitStart with `len` 0, and leaves the buffer, the trailer counter and the
sampled time as they are. -/
def Obligations.DecodeAlwaysEndsInAwaitStart : Prop :=
  ∀ s t : State, exec .decode s = .next t →
    t.st = .awaitStart ∧ t.len = 0 ∧ t.tlast = s.tnow ∧ t.tnow = s.tnow ∧ t.buf = s.buf ∧
    t.trem = s.trem ∧ ∃ es, t.out = s.out ++ es

/-! ### Metric decoder -/

/-- MD.FIND (R181): the lowest offset, or none. -/
def Obligations.MdFindGivesTheLowestOffset : Prop :=
  ∀ (s : State) (i : Nat) (m : Metric), s.cfg.metrics[i]? = some m →
    s.len ≤ s.cfg.capacity →
    ∃ r : Option Nat, exec (.mdFind i) s = .next { s with ret := .offset r } ∧
      (∀ o, r = some o → s.FirstAt m.pattern o) ∧ (r = none → s.Nowhere m.pattern)

/-- RD (R183). -/
def Obligations.RdReadsBelowTheLengthOnly : Prop :=
  ∀ (s : State) (k : Nat), s.len ≤ s.cfg.capacity →
    (k < s.len → exec (.rd k) s = .next { s with ret := .byte (s.buf.read k) }) ∧
    (s.len ≤ k → exec (.rd k) s = .next { s with ret := .fail .outOfRange })

/-- TLV.TAG (R184): bounds, then X, then L. -/
def Obligations.TlvTagChecksBoundsThenXThenL : Prop :=
  ∀ s : State, s.len ≤ s.cfg.capacity →
    (s.len ≤ s.cur → exec .tlvTag s = .next { s with ret := .fail .outOfRange }) ∧
    (s.cur < s.len → tagX (s.buf.read s.cur) = true →
      exec .tlvTag s = .next
        { s with tl := s.buf.read s.cur, ret := .fail .unsupportedFieldLength }) ∧
    (s.cur < s.len → tagX (s.buf.read s.cur) = false → tagL (s.buf.read s.cur) = 0 →
      exec .tlvTag s = .next
        { s with tl := s.buf.read s.cur, ret := .fail .unsupportedFieldLength }) ∧
    (s.GoodTag s.cur →
      exec .tlvTag s = .next
        { s with
          tl := s.buf.read s.cur, ret := .fieldLength (tagL (s.buf.read s.cur)).toNat })

/-- TLV.SKIP, TLV.U8 and TLV.S8 on a tag byte that is neither TLV.EXT nor TLV.ZERO (R187, R190, R191):
the cursor passes the whole field, and the byte taken is the one after the tag. -/
def Obligations.FieldOperationsPassTheFieldAndTakeTheByteAfterTheTag : Prop :=
  ∀ s : State, s.len ≤ s.cfg.capacity → s.GoodTag s.cur →
    exec .tlvSkip s = .next
      { s with tl := s.buf.read s.cur, cur := s.nextField s.cur, ret := .done } ∧
    (s.cur + 1 < s.len →
      exec .tlvU8 s = .next
        { s with
          tl := s.buf.read s.cur, cur := s.nextField s.cur,
          ret := .byte (s.buf.read (s.cur + 1)) } ∧
      exec .tlvS8 s = .next
        { s with
          tl := s.buf.read s.cur, cur := s.nextField s.cur,
          ret := .int (s.buf.read (s.cur + 1)).toInt })

/-- How the field operations fail (R183, R185, R186): the cursor stays, and only the latch may be
written. -/
def Obligations.FieldOperationsFailOnBoundsOrTag : Prop :=
  ∀ (s : State) (op : Instr), op ∈ [.tlvSkip, .tlvU8, .tlvS8, .tlvVal] →
    s.len ≤ s.cfg.capacity →
    (s.len ≤ s.cur → exec op s = .next { s with ret := .fail .outOfRange }) ∧
    (s.cur < s.len →
      (tagX (s.buf.read s.cur) = true ∨ tagL (s.buf.read s.cur) = 0) →
      exec op s = .next
        { s with tl := s.buf.read s.cur, ret := .fail .unsupportedFieldLength }) ∧
    (s.GoodTag s.cur → s.len ≤ s.cur + 1 → op ∈ [.tlvU8, .tlvS8] →
      exec op s = .next { s with tl := s.buf.read s.cur, ret := .fail .outOfRange })

/-- TLV.VAL (R192): the payload big-endian modulo 2^64, sign-extended from its own width for type
code 5 under SIGNEXT; a payload byte beyond the frame fails. -/
def Obligations.TlvValTakesTheBigEndianPayload : Prop :=
  ∀ s : State, s.len ≤ s.cfg.capacity → s.GoodTag s.cur →
    (s.nextField s.cur ≤ s.len →
      exec .tlvVal s = .next
        { s with
          tl := s.buf.read s.cur, cur := s.cur + 1,
          acc := BitVec.ofNat 64 (beNat (s.bufSlice (s.cur + 1) (s.nextField s.cur))),
          ret := .int (valueOf s.cfg.signExt (s.buf.read s.cur)
            (s.bufSlice (s.cur + 1) (s.nextField s.cur))) }) ∧
    (s.len < s.nextField s.cur → ∃ t,
      exec .tlvVal s = .next t ∧
      t = { s with
        tl := s.buf.read s.cur, cur := s.cur + 1, acc := t.acc, ret := .fail .outOfRange })

/-- MD.DECODE of an entry whose five fields are sound (R91, R198). -/
def Obligations.MdDecodeReadsTheFiveFieldsAfterThePattern : Prop :=
  ∀ (s : State) (i : Nat) (m : Metric) (o p1 p2 p3 p4 p5 : Nat),
    s.cfg.metrics[i]? = some m → s.len ≤ s.cfg.capacity → s.FirstAt m.pattern o →
    p1 = o + m.pattern.length → p2 = s.nextField p1 → p3 = s.nextField p2 →
    p4 = s.nextField p3 → p5 = s.nextField p4 →
    s.GoodTag p1 → s.GoodTag p2 → s.GoodTag p3 → s.GoodTag p4 → s.GoodTag p5 →
    p3 + 1 < s.len → p4 + 1 < s.len → s.nextField p5 ≤ s.len →
    ∃ rv : AccWord,
      rv.toInt = valueOf s.cfg.signExt (s.buf.read p5)
        (s.bufSlice (p5 + 1) (s.nextField p5)) ∧
      exec (.mdDecode i) s = .next
        { s with
          cur := p5 + 1, tl := s.buf.read p5,
          acc := BitVec.ofNat 64 (beNat (s.bufSlice (p5 + 1) (s.nextField p5))),
          dec := s.dec.set i
            (some { rawValue := rv, unit := s.buf.read (p3 + 1), scaler := s.buf.read (p4 + 1) }) }

/-- MD.DECODE of a metric whose pattern does not occur: absent, and no report (R181, R246). -/
def Obligations.MdDecodeOfMissingPatternIsSilent : Prop :=
  ∀ (s : State) (i : Nat) (m : Metric), s.cfg.metrics[i]? = some m →
    s.len ≤ s.cfg.capacity → s.Nowhere m.pattern →
    exec (.mdDecode i) s = .next { s with dec := s.dec.set i none }

/-- MD.DECODE emits at most one report, of kind 3 or 6 and with its own index, and then the metric is
absent; where the pattern is found and a field fails, it emits exactly the report of the first failure
met, and where no field fails, none, and the metric is present (R199, R249 (5)). -/
def Obligations.MdDecodeReportsAtMostOnceAndThenIsAbsent : Prop :=
  ∀ (s : State) (i : Nat) (m : Metric), s.cfg.metrics[i]? = some m → s.len ≤ s.cfg.capacity →
    ∃ (t : State) (d : Option DecodedValue),
      exec (.mdDecode i) s = .next t ∧
      t = { s with
        cur := t.cur, tl := t.tl, acc := t.acc, dec := s.dec.set i d, out := t.out } ∧
      (t.out = s.out ∨
        (d = none ∧
          (t.out = s.out ++ [.report 3 (some i)] ∨ t.out = s.out ++ [.report 6 (some i)]))) ∧
      ∀ o, s.FirstAt m.pattern o →
        (∀ code, s.firstFailure entryFields (o + m.pattern.length) = some code →
          d = none ∧ t.out = s.out ++ [.report code (some i)]) ∧
        (s.firstFailure entryFields (o + m.pattern.length) = none → d ≠ none ∧ t.out = s.out)

/-- MD.DECODE leaves the cursor where it was or at most 14 past the end of the frame (R28, R201, both
marked [derived] by the spec). -/
def Obligations.MdDecodeCursorStaysWithinFourteenOfTheEnd : Prop :=
  ∀ (s : State) (i : Nat), i < s.cfg.metricCount → s.len ≤ s.cfg.capacity →
    ∃ t, exec (.mdDecode i) s = .next t ∧ (t.cur = s.cur ∨ t.cur ≤ s.len + 14)

/-- MD.ALL is MD.DECODE of every metric, index ascending, from the same unchanged `buf`: each metric's
result and report are those of its MD.DECODE alone (R200). -/
def Obligations.MdAllDecodesEveryMetricInOrder : Prop :=
  ∀ s : State, s.len ≤ s.cfg.capacity →
    ∃ t, exec .mdAll s = .next t ∧
      execAll ((List.range s.cfg.metricCount).map .mdDecode) s = .next t ∧ t.buf = s.buf ∧
      ∃ es : Nat → List Output,
        t.out = s.out ++ (List.range s.cfg.metricCount).flatMap es ∧
        ∀ i < s.cfg.metricCount, ∃ u, exec (.mdDecode i) s = .next u ∧
          t.dec[i]? = u.dec[i]? ∧ u.out = s.out ++ es i

/-! ### Publisher -/

/-- PUB.SCALE (R216, R217): exact, or the nearest integer with halves away from zero. -/
def Obligations.PubScaleIsExactOrNearestHalvesAwayFromZero : Prop :=
  ∀ (s : State) (rv : AccWord) (sc : Byte),
    ∃ q : Int, exec (.pubScale rv sc) s = .next { s with ret := .int q } ∧
      (0 ≤ sc.toInt + 3 → q = rv.toInt * 10 ^ (sc.toInt + 3).toNat) ∧
      (sc.toInt + 3 < 0 →
        2 * |10 ^ (-(sc.toInt + 3)).toNat * q - rv.toInt| ≤ 10 ^ (-(sc.toInt + 3)).toNat ∧
        (2 * |10 ^ (-(sc.toInt + 3)).toNat * q - rv.toInt| = 10 ^ (-(sc.toInt + 3)).toNat →
          |rv.toInt| < |10 ^ (-(sc.toInt + 3)).toNat * q|))

/-- The finite evaluation of the scaling (R224, marked [derived] by the spec). -/
def Obligations.ScaledValueLeavesTheSlotRangeOrVanishesForLargeExponents : Prop :=
  ∀ (rv : AccWord) (sc : Byte),
    (rv = 0 → pubScale rv.toInt sc.toInt = 0) ∧
    (rv ≠ 0 → 10 ≤ sc.toInt + 3 → 10 ^ 10 ≤ |pubScale rv.toInt sc.toInt|) ∧
    (sc.toInt + 3 ≤ -20 → pubScale rv.toInt sc.toInt = 0)

/-- PUB.WRITE (R219): absent, then the slot index, then the range. R218 and R219 write 2^31 and 2^32,
the numbers at `SLOTW` = 32; other widths are the model's reading of R6 (notes/assumptions/1.md). -/
def Obligations.PubWriteTestsAbsenceThenSlotThenRange : Prop :=
  ∀ (s : State) (i : Nat), i < s.cfg.metricCount →
    (s.present i = false → exec (.pubWrite i) s = .next s) ∧
    (∀ v : DecodedValue, s.dec[i]? = some (some v) →
      (s.cfg.slotCount ≤ i →
        exec (.pubWrite i) s = .next { s with out := s.out ++ [.report 4 (some i)] }) ∧
      (i < s.cfg.slotCount → ∀ q : Int, q = pubScale v.rawValue.toInt v.scaler.toInt →
        ((q < -2 ^ (s.cfg.slotWidth - 1) ∨ 2 ^ (s.cfg.slotWidth - 1) - 1 < q) →
          exec (.pubWrite i) s = .next { s with out := s.out ++ [.report 7 (some i)] }) ∧
        (-2 ^ (s.cfg.slotWidth - 1) ≤ q → q ≤ 2 ^ (s.cfg.slotWidth - 1) - 1 →
          exec (.pubWrite i) s = .next
            { s with
              slots := s.slots.set i (q % 2 ^ s.cfg.slotWidth).toNat,
              out := s.out ++ [.slotwr i (q % 2 ^ s.cfg.slotWidth).toNat] })))

/-- PUB.ALL is PUB.WRITE of every metric, index ascending: each metric's slot and event are those of
its PUB.WRITE alone (R223). -/
def Obligations.PubAllPublishesEveryMetricInOrder : Prop :=
  ∀ s : State,
    ∃ t, exec .pubAll s = .next t ∧
      execAll ((List.range s.cfg.metricCount).map .pubWrite) s = .next t ∧
      ∃ es : Nat → List Output,
        t.out = s.out ++ (List.range s.cfg.metricCount).flatMap es ∧
        ∀ i < s.cfg.metricCount, ∃ u, exec (.pubWrite i) s = .next u ∧
          t.slots[i]? = u.slots[i]? ∧ u.out = s.out ++ es i

/-! ### Wire encodings -/

/-- Running the row that a tag byte at the cursor decodes to is running the field's operation (R106).
A row run on its own is the model's form (notes/assumptions/12.md). -/
def Obligations.TagRowAtTheCursorIsTheFieldOperation : Prop :=
  ∀ s : State, s.len ≤ s.cfg.capacity → s.cur < s.len →
    exec (decodeTag .status (s.buf.read s.cur)) s = exec .tlvSkip s ∧
    exec (decodeTag .time (s.buf.read s.cur)) s = exec .tlvSkip s ∧
    exec (decodeTag .unit (s.buf.read s.cur)) s = exec .tlvU8 s ∧
    exec (decodeTag .scaler (s.buf.read s.cur)) s = exec .tlvS8 s ∧
    exec (decodeTag .value (s.buf.read s.cur)) s = exec .tlvVal s

/-- TLV.EXT and TLV.ZERO are refused in all five fields (R185, R186): the tag is latched and the
operation fails with UnsupportedFieldLength. A row run on its own is the model's form
(notes/assumptions/12.md). -/
def Obligations.ExtendedAndZeroLengthTagsFailInEveryField : Prop :=
  ∀ (s : State) (f : Field) (t : BitVec 3) (l : BitVec 4), s.len ≤ s.cfg.capacity →
    exec (.tlvExt f t l) s = .next
      { s with tl := tagByte true t l, ret := .fail .unsupportedFieldLength } ∧
    exec (.tlvZero f t) s = .next
      { s with tl := tagByte false t 0, ret := .fail .unsupportedFieldLength }

/-- TLV.SIGNED and the seven TLV.UNSIGNED rows (R194, R195): the payload after the cursor, big-endian,
signed for type code 5 alone; a payload that leaves the frame fails. A row run on its own is the
model's form (notes/assumptions/12.md). -/
def Obligations.ValueRowsTakeTheirPayload : Prop :=
  ∀ (s : State) (l : BitVec 4) (row : Instr) (t : BitVec 3),
    (row, t) ∈ [(Instr.tlvSigned l, 5), (.tlvUnsignedT0 l, 0), (.tlvUnsignedT1 l, 1),
      (.tlvUnsignedT2 l, 2), (.tlvUnsignedT3 l, 3), (.tlvUnsignedT4 l, 4),
      (.tlvUnsignedT6 l, 6), (.tlvUnsignedT7 l, 7)] →
    l ≠ 0 → s.len ≤ s.cfg.capacity →
    (s.cur + l.toNat ≤ s.len →
      exec row s = .next
        { s with
          tl := tagByte false t l, cur := s.cur + 1,
          acc := BitVec.ofNat 64 (beNat (s.bufSlice (s.cur + 1) (s.cur + l.toNat))),
          ret := .int (valueOf s.cfg.signExt (tagByte false t l)
            (s.bufSlice (s.cur + 1) (s.cur + l.toNat))) }) ∧
    (s.cur < s.len → s.len < s.cur + l.toNat → ∃ u,
      exec row s = .next u ∧
      u = { s with
        tl := tagByte false t l, cur := s.cur + 1, acc := u.acc, ret := .fail .outOfRange })

/-- TLV.ANY (R187, R190, R191): the type code has no effect but in the latch; a byte beyond the frame
fails. A row run on its own is the model's form (notes/assumptions/12.md). -/
def Obligations.AnyTagSkipsOrTakesTheByteAfterTheTag : Prop :=
  ∀ (s : State) (t : BitVec 3) (l : BitVec 4), l ≠ 0 → s.len ≤ s.cfg.capacity →
    exec (.tlvAny .status t l) s = .next
      { s with tl := tagByte false t l, cur := s.cur + l.toNat, ret := .done } ∧
    exec (.tlvAny .time t l) s = .next
      { s with tl := tagByte false t l, cur := s.cur + l.toNat, ret := .done } ∧
    (s.cur + 1 < s.len →
      exec (.tlvAny .unit t l) s = .next
        { s with
          tl := tagByte false t l, cur := s.cur + l.toNat,
          ret := .byte (s.buf.read (s.cur + 1)) } ∧
      exec (.tlvAny .scaler t l) s = .next
        { s with
          tl := tagByte false t l, cur := s.cur + l.toNat,
          ret := .int (s.buf.read (s.cur + 1)).toInt }) ∧
    (s.len ≤ s.cur + 1 → ∀ f ∈ [Field.unit, .scaler],
      exec (.tlvAny f t l) s = .next
        { s with tl := tagByte false t l, ret := .fail .outOfRange })

/-- START arriving with nothing matched enters AccumulateBody with the marker in the buffer (R86,
R151). Delivering START as one row is the model's form (notes/assumptions/13.md). -/
def Obligations.StartMarkerEntersAccumulateBody : Prop :=
  ∀ s : State, s.Sane → s.st = .awaitStart → s.len = 0 →
    ∃ t, exec .startMark s = .next t ∧
      t = { s with buf := t.buf, len := 8, st := .accumulateBody } ∧
      t.bufSlice 0 8 = s.cfg.startMarker ∧ ∀ k, 8 ≤ k → t.buf.read k = s.buf.read k

/-- END arriving in AccumulateBody with room for it enters ReadTrailer (R87, R153).
Delivering END as one row is the model's form (notes/assumptions/13.md). -/
def Obligations.EndMarkerEntersReadTrailer : Prop :=
  ∀ s : State, s.Sane → s.cfg.Given → s.st = .accumulateBody → 8 ≤ s.len →
    s.len + 5 ≤ s.cfg.capacity - s.cfg.reserve →
    ∃ t, exec .endMark s = .next t ∧
      t = { s with buf := t.buf, len := s.len + 5, st := .readTrailer, trem := 3 } ∧
      t.bufSlice s.len (s.len + 5) = endBytes ∧
      ∀ k, k < s.len ∨ s.len + 5 ≤ k → t.buf.read k = s.buf.read k

/-- The trailer arriving in ReadTrailer completes the frame, and DECODE runs at once on it (R88, R156,
R160). Delivering the trailer as one row is the model's form (notes/assumptions/13.md). -/
def Obligations.TrailerCompletesTheFrameAndDecodes : Prop :=
  ∀ (s : State) (fill lo hi : Byte), s.Sane → s.st = .readTrailer → s.trem = 3 →
    s.len + 3 ≤ s.cfg.capacity →
    ∃ u t, exec (.trailer fill lo hi) s = .next t ∧ exec .decode u = .next t ∧
      u = { s with buf := u.buf, len := s.len + 3, trem := 0, st := .decode } ∧
      u.bufSlice s.len (s.len + 3) = [fill, lo, hi] ∧
      ∀ k, k < s.len ∨ s.len + 3 ≤ k → u.buf.read k = s.buf.read k

/-! ### The machine as a whole -/

/-- Every step keeps the sane form of the state, whatever operation it runs: R43, and beside it the
model's own form of BUF (notes/assumptions/15.md), the sizes of `dec` and of the slots (R20,
notes/assumptions/14.md), the widths of times and slots (notes/assumptions/1.md) and the configuration's
legality (notes/assumptions/3.md). -/
def Obligations.EveryStepKeepsTheStateSane : Prop :=
  ∀ s t : State, s.Sane → step s = .next t → t.Sane

/-- Every step that the environment's events drive keeps R44 (marked [derived] by the spec). -/
def Obligations.EventDrivenStepKeepsTheFramingInvariant : Prop :=
  ∀ s t : State, s.EventDriven → step s = .next t → t.EventDriven

/-- There is no stuck state: from every state of an event-driven run the next step completes (R16,
R296). -/
def Obligations.EventDrivenStepAlwaysCompletes : Prop :=
  ∀ s : State, s.EventDriven → ∃ t, step s = .next t

/-- TICK completes and equals its fine-grained form (R9): `now` sampled, then TMO.CHK, then the bytes
consumed one by one in single steps, with every DECODE in its place (R148). The field `rest` is the
model's (notes/assumptions/9.md). -/
def Obligations.TickEqualsItsFineGrainedSteps : Prop :=
  ∀ (s : State) (ss : FrameState) (now : Time) (bs : List Byte),
    s.EventDriven → s.st ≠ .decode → s.rest = [] →
    ∃ (s1 t : State) (n : Nat),
      exec .tmoChk { s with tnow := now % 2 ^ s.cfg.timeWidth } = .next s1 ∧
      exec (.tick ss now bs) s = .next t ∧
      (Host.Core.run Sys2Proof.core n { s1 with rest := bs } : Outcome) = .next t

/-- Cutting a tick's bytes in two changes nothing but the time registers, where the second timeout
check does not fire (R164, marked [derived] by the spec). -/
def Obligations.ChunkingOfBytesIntoTicksIsUnobservable : Prop :=
  ∀ (s : State) (ss : FrameState) (now later : Time) (as bs : List Byte),
    s.EventDriven → s.st ≠ .decode →
    ∃ t u, exec (.tick ss now (as ++ bs)) s = .next t ∧ exec (.tick ss now as) s = .next u ∧
      (elapsedOf s.cfg.timeWidth later u.tlast ≤ s.cfg.timeoutT →
        ∃ v, exec (.tick ss later bs) u = .next v ∧
          v = { t with tnow := later % 2 ^ s.cfg.timeWidth, tlast := v.tlast })

/-- A well-formed frame that fits, delivered from AwaitStart with nothing matched and no timeout due,
is decoded exactly once, on exactly its own bytes, and the block is back in AwaitStart (R162, marked
[derived] by the spec). -/
def Obligations.WellFormedFrameIsDecodedOnceOnItsOwnBytes : Prop :=
  ∀ (s : State) (ss : FrameState) (now : Time) (body tr : List Byte),
    s.Sane → s.st = .awaitStart → s.len = 0 → elapsedOf s.cfg.timeWidth now s.tlast ≤ s.cfg.timeoutT →
    EndOnlyAtEnd s.cfg body → tr.length = s.cfg.trailerLen →
    (frameHead s.cfg body ++ tr).length ≤ s.cfg.capacity →
    ∃ u t, exec (.tick ss now (frameHead s.cfg body ++ tr)) s = .next t ∧
      exec .decode u = .next t ∧ u.Holds (frameHead s.cfg body ++ tr) ∧
      u = { s with
        buf := u.buf, len := u.len, tnow := now % 2 ^ s.cfg.timeWidth, trem := 0, st := .decode } ∧
      t.st = .awaitStart ∧ t.len = 0

/-- What R271 calls unspecified is never read: from two states that agree on the rest, a step gives
states that agree on the rest and emits the same events ("A model must not let any behaviour depend on
an unspecified element"; R271 is marked [derived] by the spec). -/
def Obligations.UnspecifiedElementsNeverAffectAStep : Prop :=
  ∀ s t s' : State, s.Sane → t.Sane → s.port = none → s.Alike t → step s = .next s' →
    ∃ (t' : State) (es : List Output), step t = .next t' ∧ s'.Alike t' ∧
      s'.out = s.out ++ es ∧ t'.out = t.out ++ es

/-- The same frame twice, with no timeout due, emits the same events twice (R163, R225, both marked
[derived] by the spec). -/
def Obligations.SameFrameTwiceEmitsTheSameEventsTwice : Prop :=
  ∀ (s : State) (ss : FrameState) (now later : Time) (body tr : List Byte),
    s.Sane → s.st = .awaitStart → s.len = 0 → elapsedOf s.cfg.timeWidth now s.tlast ≤ s.cfg.timeoutT →
    elapsedOf s.cfg.timeWidth later now ≤ s.cfg.timeoutT →
    EndOnlyAtEnd s.cfg body → tr.length = s.cfg.trailerLen →
    (frameHead s.cfg body ++ tr).length ≤ s.cfg.capacity →
    ∃ (t u : State) (es : List Output),
      exec (.tick ss now (frameHead s.cfg body ++ tr)) s = .next t ∧
      exec (.tick ss later (frameHead s.cfg body ++ tr)) t = .next u ∧
      t.out = s.out ++ es ∧ u.out = t.out ++ es

/-- No operation changes the configuration (R36, R79), the bytes of a tick in progress or the
environment's pending events. -/
def Obligations.ConfigurationNeverChanges : Prop :=
  ∀ (i : Instr) (s t : State), exec i s = .next t →
    t.cfg = s.cfg ∧ t.rest = s.rest ∧ t.pend = s.pend ∧ t.port = s.port

/-- The slots hold what the emitted SLOTWR events put there, in order, the last one winning (R16,
R76). -/
def Obligations.SlotsAreTheEffectOfTheEmittedWrites : Prop :=
  ∀ (i : Instr) (s t : State), exec i s = .next t →
    ∃ es, t.out = s.out ++ es ∧ t.slots = applyWrites s.slots es
end

