-- ==== Sys2Proof/Laws/State.lean ====
section
/-! SUPPORT. The fields of a state after each named update: one lemma per field and update, all true by
unfolding, so that no later proof unfolds a record update. -/

namespace Sys2Proof.Machine

variable (s : State)

/-! ### emit -/

@[simp] theorem State.emit_cfg (e : Output) : (s.emit e).cfg = s.cfg := rfl
@[simp] theorem State.emit_st (e : Output) : (s.emit e).st = s.st := rfl
@[simp] theorem State.emit_len (e : Output) : (s.emit e).len = s.len := rfl
@[simp] theorem State.emit_buf (e : Output) : (s.emit e).buf = s.buf := rfl
@[simp] theorem State.emit_trem (e : Output) : (s.emit e).trem = s.trem := rfl
@[simp] theorem State.emit_tlast (e : Output) : (s.emit e).tlast = s.tlast := rfl
@[simp] theorem State.emit_tnow (e : Output) : (s.emit e).tnow = s.tnow := rfl
@[simp] theorem State.emit_crc (e : Output) : (s.emit e).crc = s.crc := rfl
@[simp] theorem State.emit_cur (e : Output) : (s.emit e).cur = s.cur := rfl
@[simp] theorem State.emit_acc (e : Output) : (s.emit e).acc = s.acc := rfl
@[simp] theorem State.emit_tl (e : Output) : (s.emit e).tl = s.tl := rfl
@[simp] theorem State.emit_dec (e : Output) : (s.emit e).dec = s.dec := rfl
@[simp] theorem State.emit_slots (e : Output) : (s.emit e).slots = s.slots := rfl
@[simp] theorem State.emit_out (e : Output) : (s.emit e).out = s.out ++ [e] := rfl
@[simp] theorem State.emit_ret (e : Output) : (s.emit e).ret = s.ret := rfl
@[simp] theorem State.emit_rest (e : Output) : (s.emit e).rest = s.rest := rfl
@[simp] theorem State.emit_pend (e : Output) : (s.emit e).pend = s.pend := rfl
@[simp] theorem State.emit_port (e : Output) : (s.emit e).port = s.port := rfl

/-! ### report -/

@[simp] theorem State.report_cfg (k : ErrKind) (idx : Option Nat) : (s.report k idx).cfg = s.cfg := rfl
@[simp] theorem State.report_st (k : ErrKind) (idx : Option Nat) : (s.report k idx).st = s.st := rfl
@[simp] theorem State.report_len (k : ErrKind) (idx : Option Nat) : (s.report k idx).len = s.len := rfl
@[simp] theorem State.report_buf (k : ErrKind) (idx : Option Nat) : (s.report k idx).buf = s.buf := rfl
@[simp] theorem State.report_trem (k : ErrKind) (idx : Option Nat) : (s.report k idx).trem = s.trem := rfl
@[simp] theorem State.report_tlast (k : ErrKind) (idx : Option Nat) : (s.report k idx).tlast = s.tlast := rfl
@[simp] theorem State.report_tnow (k : ErrKind) (idx : Option Nat) : (s.report k idx).tnow = s.tnow := rfl
@[simp] theorem State.report_crc (k : ErrKind) (idx : Option Nat) : (s.report k idx).crc = s.crc := rfl
@[simp] theorem State.report_cur (k : ErrKind) (idx : Option Nat) : (s.report k idx).cur = s.cur := rfl
@[simp] theorem State.report_acc (k : ErrKind) (idx : Option Nat) : (s.report k idx).acc = s.acc := rfl
@[simp] theorem State.report_tl (k : ErrKind) (idx : Option Nat) : (s.report k idx).tl = s.tl := rfl
@[simp] theorem State.report_dec (k : ErrKind) (idx : Option Nat) : (s.report k idx).dec = s.dec := rfl
@[simp] theorem State.report_slots (k : ErrKind) (idx : Option Nat) : (s.report k idx).slots = s.slots := rfl
@[simp] theorem State.report_out (k : ErrKind) (idx : Option Nat) : (s.report k idx).out = s.out ++ [.report k.code idx] := rfl
@[simp] theorem State.report_ret (k : ErrKind) (idx : Option Nat) : (s.report k idx).ret = s.ret := rfl
@[simp] theorem State.report_rest (k : ErrKind) (idx : Option Nat) : (s.report k idx).rest = s.rest := rfl
@[simp] theorem State.report_pend (k : ErrKind) (idx : Option Nat) : (s.report k idx).pend = s.pend := rfl
@[simp] theorem State.report_port (k : ErrKind) (idx : Option Nat) : (s.report k idx).port = s.port := rfl

/-! ### latch -/

@[simp] theorem State.latch_cfg (r : OpResult) : (s.latch r).cfg = s.cfg := rfl
@[simp] theorem State.latch_st (r : OpResult) : (s.latch r).st = s.st := rfl
@[simp] theorem State.latch_len (r : OpResult) : (s.latch r).len = s.len := rfl
@[simp] theorem State.latch_buf (r : OpResult) : (s.latch r).buf = s.buf := rfl
@[simp] theorem State.latch_trem (r : OpResult) : (s.latch r).trem = s.trem := rfl
@[simp] theorem State.latch_tlast (r : OpResult) : (s.latch r).tlast = s.tlast := rfl
@[simp] theorem State.latch_tnow (r : OpResult) : (s.latch r).tnow = s.tnow := rfl
@[simp] theorem State.latch_crc (r : OpResult) : (s.latch r).crc = s.crc := rfl
@[simp] theorem State.latch_cur (r : OpResult) : (s.latch r).cur = s.cur := rfl
@[simp] theorem State.latch_acc (r : OpResult) : (s.latch r).acc = s.acc := rfl
@[simp] theorem State.latch_tl (r : OpResult) : (s.latch r).tl = s.tl := rfl
@[simp] theorem State.latch_dec (r : OpResult) : (s.latch r).dec = s.dec := rfl
@[simp] theorem State.latch_slots (r : OpResult) : (s.latch r).slots = s.slots := rfl
@[simp] theorem State.latch_out (r : OpResult) : (s.latch r).out = s.out := rfl
@[simp] theorem State.latch_ret (r : OpResult) : (s.latch r).ret = r := rfl
@[simp] theorem State.latch_rest (r : OpResult) : (s.latch r).rest = s.rest := rfl
@[simp] theorem State.latch_pend (r : OpResult) : (s.latch r).pend = s.pend := rfl
@[simp] theorem State.latch_port (r : OpResult) : (s.latch r).port = s.port := rfl

/-! ### bufReset -/

@[simp] theorem State.bufReset_cfg : (s.bufReset).cfg = s.cfg := rfl
@[simp] theorem State.bufReset_st : (s.bufReset).st = s.st := rfl
@[simp] theorem State.bufReset_len : (s.bufReset).len = 0 := rfl
@[simp] theorem State.bufReset_buf : (s.bufReset).buf = s.buf := rfl
@[simp] theorem State.bufReset_trem : (s.bufReset).trem = s.trem := rfl
@[simp] theorem State.bufReset_tlast : (s.bufReset).tlast = s.tlast := rfl
@[simp] theorem State.bufReset_tnow : (s.bufReset).tnow = s.tnow := rfl
@[simp] theorem State.bufReset_crc : (s.bufReset).crc = s.crc := rfl
@[simp] theorem State.bufReset_cur : (s.bufReset).cur = s.cur := rfl
@[simp] theorem State.bufReset_acc : (s.bufReset).acc = s.acc := rfl
@[simp] theorem State.bufReset_tl : (s.bufReset).tl = s.tl := rfl
@[simp] theorem State.bufReset_dec : (s.bufReset).dec = s.dec := rfl
@[simp] theorem State.bufReset_slots : (s.bufReset).slots = s.slots := rfl
@[simp] theorem State.bufReset_out : (s.bufReset).out = s.out := rfl
@[simp] theorem State.bufReset_ret : (s.bufReset).ret = s.ret := rfl
@[simp] theorem State.bufReset_rest : (s.bufReset).rest = s.rest := rfl
@[simp] theorem State.bufReset_pend : (s.bufReset).pend = s.pend := rfl
@[simp] theorem State.bufReset_port : (s.bufReset).port = s.port := rfl

/-! ### enterAs -/

@[simp] theorem State.enterAs_cfg : (s.enterAs).cfg = s.cfg := rfl
@[simp] theorem State.enterAs_st : (s.enterAs).st = .awaitStart := rfl
@[simp] theorem State.enterAs_len : (s.enterAs).len = 0 := rfl
@[simp] theorem State.enterAs_buf : (s.enterAs).buf = s.buf := rfl
@[simp] theorem State.enterAs_trem : (s.enterAs).trem = s.trem := rfl
@[simp] theorem State.enterAs_tlast : (s.enterAs).tlast = s.tnow := rfl
@[simp] theorem State.enterAs_tnow : (s.enterAs).tnow = s.tnow := rfl
@[simp] theorem State.enterAs_crc : (s.enterAs).crc = s.crc := rfl
@[simp] theorem State.enterAs_cur : (s.enterAs).cur = s.cur := rfl
@[simp] theorem State.enterAs_acc : (s.enterAs).acc = s.acc := rfl
@[simp] theorem State.enterAs_tl : (s.enterAs).tl = s.tl := rfl
@[simp] theorem State.enterAs_dec : (s.enterAs).dec = s.dec := rfl
@[simp] theorem State.enterAs_slots : (s.enterAs).slots = s.slots := rfl
@[simp] theorem State.enterAs_out : (s.enterAs).out = s.out := rfl
@[simp] theorem State.enterAs_ret : (s.enterAs).ret = s.ret := rfl
@[simp] theorem State.enterAs_rest : (s.enterAs).rest = s.rest := rfl
@[simp] theorem State.enterAs_pend : (s.enterAs).pend = s.pend := rfl
@[simp] theorem State.enterAs_port : (s.enterAs).port = s.port := rfl

/-! ### slotWrite -/

@[simp] theorem State.slotWrite_cfg (i : Nat) (v : SlotWord) : (s.slotWrite i v).cfg = s.cfg := rfl
@[simp] theorem State.slotWrite_st (i : Nat) (v : SlotWord) : (s.slotWrite i v).st = s.st := rfl
@[simp] theorem State.slotWrite_len (i : Nat) (v : SlotWord) : (s.slotWrite i v).len = s.len := rfl
@[simp] theorem State.slotWrite_buf (i : Nat) (v : SlotWord) : (s.slotWrite i v).buf = s.buf := rfl
@[simp] theorem State.slotWrite_trem (i : Nat) (v : SlotWord) : (s.slotWrite i v).trem = s.trem := rfl
@[simp] theorem State.slotWrite_tlast (i : Nat) (v : SlotWord) : (s.slotWrite i v).tlast = s.tlast := rfl
@[simp] theorem State.slotWrite_tnow (i : Nat) (v : SlotWord) : (s.slotWrite i v).tnow = s.tnow := rfl
@[simp] theorem State.slotWrite_crc (i : Nat) (v : SlotWord) : (s.slotWrite i v).crc = s.crc := rfl
@[simp] theorem State.slotWrite_cur (i : Nat) (v : SlotWord) : (s.slotWrite i v).cur = s.cur := rfl
@[simp] theorem State.slotWrite_acc (i : Nat) (v : SlotWord) : (s.slotWrite i v).acc = s.acc := rfl
@[simp] theorem State.slotWrite_tl (i : Nat) (v : SlotWord) : (s.slotWrite i v).tl = s.tl := rfl
@[simp] theorem State.slotWrite_dec (i : Nat) (v : SlotWord) : (s.slotWrite i v).dec = s.dec := rfl
@[simp] theorem State.slotWrite_slots (i : Nat) (v : SlotWord) : (s.slotWrite i v).slots = s.slots.set i v := rfl
@[simp] theorem State.slotWrite_out (i : Nat) (v : SlotWord) : (s.slotWrite i v).out = s.out ++ [.slotwr i v] := rfl
@[simp] theorem State.slotWrite_ret (i : Nat) (v : SlotWord) : (s.slotWrite i v).ret = s.ret := rfl
@[simp] theorem State.slotWrite_rest (i : Nat) (v : SlotWord) : (s.slotWrite i v).rest = s.rest := rfl
@[simp] theorem State.slotWrite_pend (i : Nat) (v : SlotWord) : (s.slotWrite i v).pend = s.pend := rfl
@[simp] theorem State.slotWrite_port (i : Nat) (v : SlotWord) : (s.slotWrite i v).port = s.port := rfl

/-! ### setTime -/

@[simp] theorem State.setTime_tnow (now : Time) : (s.setTime now).tnow = timeOf s.cfg.timeWidth now := rfl
@[simp] theorem State.setTime_cfg (now : Time) : (s.setTime now).cfg = s.cfg := rfl
@[simp] theorem State.setTime_st (now : Time) : (s.setTime now).st = s.st := rfl
@[simp] theorem State.setTime_len (now : Time) : (s.setTime now).len = s.len := rfl
@[simp] theorem State.setTime_buf (now : Time) : (s.setTime now).buf = s.buf := rfl
@[simp] theorem State.setTime_trem (now : Time) : (s.setTime now).trem = s.trem := rfl
@[simp] theorem State.setTime_tlast (now : Time) : (s.setTime now).tlast = s.tlast := rfl
@[simp] theorem State.setTime_crc (now : Time) : (s.setTime now).crc = s.crc := rfl
@[simp] theorem State.setTime_cur (now : Time) : (s.setTime now).cur = s.cur := rfl
@[simp] theorem State.setTime_acc (now : Time) : (s.setTime now).acc = s.acc := rfl
@[simp] theorem State.setTime_tl (now : Time) : (s.setTime now).tl = s.tl := rfl
@[simp] theorem State.setTime_dec (now : Time) : (s.setTime now).dec = s.dec := rfl
@[simp] theorem State.setTime_slots (now : Time) : (s.setTime now).slots = s.slots := rfl
@[simp] theorem State.setTime_out (now : Time) : (s.setTime now).out = s.out := rfl
@[simp] theorem State.setTime_ret (now : Time) : (s.setTime now).ret = s.ret := rfl
@[simp] theorem State.setTime_rest (now : Time) : (s.setTime now).rest = s.rest := rfl
@[simp] theorem State.setTime_pend (now : Time) : (s.setTime now).pend = s.pend := rfl
@[simp] theorem State.setTime_port (now : Time) : (s.setTime now).port = s.port := rfl

/-! ### Errors -/

theorem State.raise_bufferOverflow :
    s.raise .bufferOverflow none = (s.report .bufferOverflow none).enterAs := rfl

theorem State.raise_checksumMismatch :
    s.raise .checksumMismatch none = (s.report .checksumMismatch none).enterAs := rfl

theorem State.raise_timeout : s.raise .timeout none = (s.report .timeout none).enterAs := rfl

theorem State.raise_unsupportedFieldLength (i : Nat) :
    s.raise .unsupportedFieldLength (some i) =
      State.report .unsupportedFieldLength (some i) { s with dec := s.dec.set i none } := rfl

theorem State.raise_outOfRange (i : Nat) :
    s.raise .outOfRange (some i) =
      State.report .outOfRange (some i) { s with dec := s.dec.set i none } := rfl

theorem State.raise_sinkSlotExhausted (idx : Option Nat) :
    s.raise .sinkSlotExhausted idx = s.report .sinkSlotExhausted idx := rfl

theorem State.raise_valueOutOfRange (idx : Option Nat) :
    s.raise .valueOutOfRange idx = s.report .valueOutOfRange idx := rfl

/-! ### Outcomes -/

@[simp] theorem Outcome.andThen_next (f : State → Outcome) :
    Outcome.andThen (.next s) f = f s := rfl

@[simp] theorem Outcome.andThen_fault (r : Fault) (f : State → Outcome) :
    Outcome.andThen (.fault r) f = .fault r := rfl

@[simp] theorem Outcome.andThen_refused (r : Refusal) (f : State → Outcome) :
    Outcome.andThen (.refused r) f = .refused r := rfl

/-- A sequence that answers a next state went through one. -/
theorem Outcome.andThen_eq_next {o : Outcome} {f : State → Outcome} {t : State}
    (h : Outcome.andThen o f = .next t) : ∃ u, o = .next u ∧ f u = .next t := by
  cases o with
  | next u => exact ⟨u, rfl, h⟩
  | fault r => cases h
  | refused r => cases h

theorem Outcome.andThen_assoc (o : Outcome) (f g : State → Outcome) :
    Outcome.andThen (Outcome.andThen o f) g = Outcome.andThen o fun u => Outcome.andThen (f u) g := by
  cases o <;> rfl

theorem State.readingBuf_next {s : State} (h : s.len ≤ s.cfg.capacity) (o : Outcome) :
    s.readingBuf o = o := if_pos h

end Sys2Proof.Machine
end

