-- ==== Sys2Proof/Laws/Memory.lean ====
section
/-! SUPPORT. BUF as data: a write is read back, leaves every other address alone, and keeps the
canonical form and the bound. -/

namespace Sys2Proof.Machine

/-- The canonical form, one entry at a time. -/
theorem Memory.wf_cons (c : Host.Cell) (m : Memory) :
    Memory.wf (c :: m) = true ↔ c.2 ≠ Memory.blank ∧ (∀ d ∈ m, c.1 < d.1) ∧ Memory.wf m = true := by
  induction m generalizing c with
  | nil => simp [Memory.wf]
  | cons d m ih =>
    obtain ⟨a, v⟩ := c
    obtain ⟨b, w⟩ := d
    simp only [Memory.wf, Bool.and_eq_true, decide_eq_true_eq, List.mem_cons, forall_eq_or_imp]
    constructor
    · rintro ⟨⟨hv, hab⟩, hm⟩
      refine ⟨hv, ⟨hab, fun d hd => ?_⟩, hm⟩
      exact Nat.lt_trans hab (((ih (b, w)).1 hm).2.1 d hd)
    · rintro ⟨hv, ⟨hab, _⟩, hm⟩
      exact ⟨⟨hv, hab⟩, hm⟩

/-- An address below every listed one reads as blank. -/
theorem Memory.read_of_lt {m : Memory} {a : Nat} (h : ∀ d ∈ m, a < d.1) :
    Memory.read m a = Memory.blank := by
  induction m with
  | nil => rfl
  | cons d m ih =>
    have hd := h d (by simp)
    rw [Memory.read, if_neg (by omega), ih fun e he => h e (by simp [he])]

/-- A write is read back and leaves every other address alone. -/
theorem Memory.read_write {m : Memory} (h : Memory.wf m = true) (a k : Nat) (v : Byte) :
    Memory.read (Memory.write m a v) k = if k = a then v else Memory.read m k := by
  induction m with
  | nil =>
    by_cases hv : v = Memory.blank
    · simp [Memory.write, Memory.read, hv]
    · simp [Memory.write, Memory.read, hv]
  | cons d m ih =>
    obtain ⟨b, w⟩ := d
    obtain ⟨hw, hlt, hm⟩ := (Memory.wf_cons _ _).1 h
    have hblank : ∀ x, x ≤ b → Memory.read m x = Memory.blank := fun x hx =>
      Memory.read_of_lt fun e he => Nat.lt_of_le_of_lt hx (hlt e he)
    unfold Memory.write
    by_cases hab : a < b
    · by_cases hv : v = Memory.blank
      · by_cases hk : k = a
        · have : ¬ a = b := by omega
          simp [hab, hv, hk, Memory.read, this, hblank a (by omega)]
        · simp [hab, hv, hk]
      · by_cases hk : k = a <;> simp [hab, hv, hk, Memory.read]
    · by_cases hab' : a = b
      · subst hab'
        by_cases hv : v = Memory.blank
        · by_cases hk : k = a
          · simp [hv, hk, hblank a (Nat.le_refl a)]
          · simp [hv, hk, Memory.read]
        · by_cases hk : k = a <;> simp [hv, hk, Memory.read]
      · by_cases hk : k = b
        · have : ¬ b = a := fun e => hab' e.symm
          simp [hab, hab', hk, Memory.read, this]
        · simp [hab, hab', hk, Memory.read, ih hm]

/-- Where a write puts entries. -/
theorem Memory.mem_write {m : Memory} {a : Nat} {v : Byte} {d : Host.Cell}
    (h : d ∈ Memory.write m a v) : d ∈ m ∨ d.1 = a := by
  induction m with
  | nil =>
    unfold Memory.write at h
    split at h
    · simp at h
    · exact .inr (by simp_all)
  | cons c m ih =>
    obtain ⟨b, w⟩ := c
    unfold Memory.write at h
    split at h
    · split at h
      · exact .inl h
      · rcases List.mem_cons.1 h with rfl | h
        · exact .inr rfl
        · exact .inl h
    · split at h
      · split at h
        · exact .inl (List.mem_cons_of_mem _ h)
        · rcases List.mem_cons.1 h with rfl | h
          · exact .inr rfl
          · exact .inl (List.mem_cons_of_mem _ h)
      · rcases List.mem_cons.1 h with rfl | h
        · exact .inl (by simp)
        · exact (ih h).imp (List.mem_cons_of_mem _) id

/-- A write keeps the canonical form. -/
theorem Memory.wf_write {m : Memory} (h : Memory.wf m = true) (a : Nat) (v : Byte) :
    Memory.wf (Memory.write m a v) = true := by
  induction m with
  | nil =>
    by_cases hv : v = Memory.blank <;> simp [Memory.write, Memory.wf, hv]
  | cons d m ih =>
    obtain ⟨b, w⟩ := d
    obtain ⟨hw, hlt, hm⟩ := (Memory.wf_cons _ _).1 h
    unfold Memory.write
    split
    · rename_i hab
      split
      · exact h
      · rename_i hv
        refine (Memory.wf_cons _ _).2 ⟨hv, fun e he => ?_, h⟩
        rcases List.mem_cons.1 he with rfl | he
        · exact hab
        · exact Nat.lt_trans hab (hlt e he)
    · split
      · rename_i hab'
        split
        · exact hm
        · rename_i hv
          exact (Memory.wf_cons _ _).2 ⟨hv, fun e he => by simpa [hab'] using hlt e he, hm⟩
      · rename_i hab hab'
        refine (Memory.wf_cons _ _).2 ⟨hw, fun e he => ?_, ih hm⟩
        rcases Memory.mem_write he with he | he
        · exact hlt e he
        · simp only at hab hab' ⊢
          omega

/-- A write within the bound keeps the bound. -/
theorem Memory.below_write {m : Memory} {n : Nat} (h : Memory.below n m = true) {a : Nat}
    (ha : a < n) (v : Byte) : Memory.below n (Memory.write m a v) = true := by
  simp only [Memory.below, List.all_eq_true, decide_eq_true_eq] at h ⊢
  intro d hd
  rcases Memory.mem_write hd with hd | hd
  · exact h d hd
  · omega

/-- The empty memory reads blank everywhere. -/
@[simp] theorem Memory.read_nil (a : Nat) : Memory.read [] a = Memory.blank := rfl

/-! ### Slices (R119) -/

@[simp] theorem State.bufSlice_length (s : State) (lo hi : Nat) :
    (s.bufSlice lo hi).length = hi - lo := by simp [State.bufSlice]

theorem State.bufSlice_getElem (s : State) (lo hi k : Nat) (h : k < (s.bufSlice lo hi).length) :
    (s.bufSlice lo hi)[k] = s.buf.read (lo + k) := by simp [State.bufSlice]

theorem State.bufSlice_getElem? (s : State) {lo hi k : Nat} (h : k < hi - lo) :
    (s.bufSlice lo hi)[k]? = some (s.buf.read (lo + k)) := by
  rw [List.getElem?_eq_getElem (by simpa using h), State.bufSlice_getElem]

/-- A slice depends on the bytes it covers only. -/
theorem State.bufSlice_congr {s t : State} {lo hi : Nat}
    (h : ∀ k, lo ≤ k → k < hi → s.buf.read k = t.buf.read k) :
    s.bufSlice lo hi = t.bufSlice lo hi := by
  apply List.ext_getElem (by simp)
  intro k hk _
  simp only [State.bufSlice_length] at hk
  rw [State.bufSlice_getElem, State.bufSlice_getElem]
  exact h _ (by omega) (by omega)

/-- One byte more at the end of a slice. -/
theorem State.bufSlice_succ (s : State) {lo hi : Nat} (h : lo ≤ hi) :
    s.bufSlice lo (hi + 1) = s.bufSlice lo hi ++ [s.buf.read hi] := by
  unfold State.bufSlice
  rw [show hi + 1 - lo = (hi - lo) + 1 by omega, List.range'_concat, List.map_append]
  simp [show lo + (hi - lo) = hi by omega]

end Sys2Proof.Machine
end

