-- ==== Sys2Proof/Laws/Encoding.lean ====
section
/-! SUPPORT. Operand bytes, the parts of a tag byte and of a selector, and what the words of the
environment's events decode to. -/

namespace Sys2Proof

/-! ### Operand bytes -/

@[simp] theorem leBytes_length (n v : Nat) : (leBytes n v).length = n := by
  induction n generalizing v with
  | zero => rfl
  | succ n ih => simp [leBytes, ih]

theorem leNat_leBytes {n v : Nat} (h : v < 256 ^ n) : leNat (leBytes n v) = v := by
  induction n generalizing v with
  | zero => simp at h; simp [leBytes, leNat, h]
  | succ n ih =>
    rw [leBytes, leNat, ih (v := v / 256) (by rw [Nat.pow_succ] at h; omega)]
    simp
    omega

theorem leNat_lt (bs : List Byte) : leNat bs < 256 ^ bs.length := by
  induction bs with
  | nil => simp [leNat]
  | cons b bs ih =>
    simp only [leNat, List.length_cons, Nat.pow_succ]
    have := b.isLt
    omega

theorem leBytes_leNat (bs : List Byte) : leBytes bs.length (leNat bs) = bs := by
  induction bs with
  | nil => rfl
  | cons b bs ih =>
    simp only [List.length_cons, leBytes, leNat]
    have hb := b.isLt
    rw [show (b.toNat + 256 * leNat bs) / 256 = leNat bs by omega, ih]
    congr 1
    apply BitVec.eq_of_toNat_eq
    simp
    omega

/-- The operand bytes of a time value keep its low 64 bits. -/
theorem leNat_leBytes_mod (n v : Nat) : leNat (leBytes n v) = v % 256 ^ n := by
  induction n generalizing v with
  | zero => simp [leBytes, leNat, Nat.mod_one]
  | succ n ih =>
    rw [leBytes, leNat, ih, Nat.pow_succ, Nat.mul_comm (256 ^ n), Nat.mod_mul]
    simp

/-! ### Tag bytes (R92) -/

@[simp] theorem tagX_tagByte (x : Bool) (t : BitVec 3) (l : BitVec 4) :
    tagX (tagByte x t l) = x := by revert x t l; decide

@[simp] theorem tagT_tagByte (x : Bool) (t : BitVec 3) (l : BitVec 4) :
    tagT (tagByte x t l) = t := by revert x t l; decide

@[simp] theorem tagL_tagByte (x : Bool) (t : BitVec 3) (l : BitVec 4) :
    tagL (tagByte x t l) = l := by revert x t l; decide

theorem tagByte_parts (b : Byte) : tagByte (tagX b) (tagT b) (tagL b) = b := by revert b; decide

@[simp] theorem Field.ofCode_code (f : Field) : Field.ofCode f.code = some f := by cases f <;> rfl

theorem Field.code_of_ofCode {c : Byte} {f : Field} (h : Field.ofCode c = some f) : f.code = c := by
  revert c f; decide

/-! ### Selectors (R102) -/

/-- A selector byte gives back its two halves. -/
theorem selByte_parts {ev : Byte} (ss : FrameState) (h : ev.toNat < 4) :
    ¬ 16 ≤ (selByte ev ss).toNat ∧
    FrameState.ofCode ((selByte ev ss).extractLsb' 0 2) = ss ∧
    ((selByte ev ss).extractLsb' 2 2).toNat = ev.toNat := by
  revert ev; cases ss <;> decide

/-- A four-bit byte is the selector of its two halves. -/
theorem selByte_of_parts {c : Byte} (h : ¬ 16 ≤ c.toNat) :
    selByte (BitVec.ofNat 8 (c.extractLsb' 2 2).toNat) (FrameState.ofCode (c.extractLsb' 0 2)) = c := by
  revert c; decide

namespace Machine

/-- An input byte selects by `st` alone (R150). -/
theorem decode_byteWord (ss : FrameState) (b : Byte) :
    decode (byteWord ss b) = .instr
      (match ss with
        | .awaitStart => .rxAs b
        | .accumulateBody => .rxAb b
        | .readTrailer => .rxRt b
        | .decode => .rxDe b) := by
  cases ss <;> rfl

theorem decode_tickEvent (ss : FrameState) (now : Time) (bs : List Byte) :
    decode (eventWord ss (.tick now bs)) = .instr (.tick ss (now % 256 ^ 8) bs) := by
  obtain ⟨h1, h2, h3⟩ := selByte_parts (ev := 1) ss (by decide)
  have hl := leBytes_length 8 now
  simp only [eventWord, encodeSel, decode, decodeSel, if_neg h1, h2, h3]
  simp [List.take_left' hl, List.drop_left' hl, leNat_leBytes_mod]

theorem decode_resetEvent (ss : FrameState) (now : Time) :
    decode (eventWord ss (.reset now)) = .instr (.reset ss (now % 256 ^ 8)) := by
  obtain ⟨h1, h2, h3⟩ := selByte_parts (ev := 2) ss (by decide)
  simp only [eventWord, encodeSel, decode, decodeSel, if_neg h1, h2, h3]
  simp [leNat_leBytes_mod]

/-- A tick that runs in its fine-grained steps begins with TMO.CHK (R148). -/
theorem decode_tickStepsEvent (ss : FrameState) (now : Time) (bs : List Byte) :
    decode (eventWord ss (.tickSteps now bs)) = .instr .tmoChk := rfl

theorem decode_internalWord (ss : FrameState) :
    decode (internalWord ss) = .instr (if ss = .decode then .decode else .selNone ss) := by
  cases ss <;> rfl

end Machine

end Sys2Proof
end

