-- ==== Sys2Proof/Laws/Conditions.lean ====
section
/-! SUPPORT. What each tested condition says, and what R7 gives a configuration. -/

namespace Sys2Proof

theorem Config.wf_iff (c : Config) : c.wf = true ↔
    c.startMarker.length + c.endMarker.length + c.trailerLen ≤ c.capacity ∧
    c.reserve = c.trailerLen ∧ c.capacity < 4096 ∧ c.startMarker.length = 8 ∧
    c.endMarker.length = 5 ∧ 1 ≤ c.trailerLen ∧ c.trailerLen ≤ 3 ∧
    (∀ m ∈ c.metrics, 1 ≤ m.pattern.length) ∧ 1 ≤ c.slotWidth ∧ c.timeWidth ≤ 64 ∧
    1 ≤ c.timeUnit ∧ c.timeUnit ∣ c.timeout := by
  simp only [Config.wf, Bool.and_eq_true, decide_eq_true_eq, List.all_eq_true, and_assoc]

namespace Machine

variable (s : State)

theorem State.timedOut_iff :
    s.timedOut = true ↔ s.cfg.timeoutT < elapsedOf s.cfg.timeWidth s.tnow s.tlast :=
  decide_eq_true_iff

theorem State.endMatched_iff : s.endMatched = true ↔
    s.cfg.endMarker.length ≤ s.len ∧
    s.bufSlice (s.len - s.cfg.endMarker.length) s.len = s.cfg.endMarker := by
  simp only [State.endMatched, Bool.and_eq_true, decide_eq_true_eq]

theorem State.spanOk_iff (lo hi : Nat) : s.spanOk lo hi = true ↔ lo ≤ hi ∧ hi ≤ s.len := by
  simp only [State.spanOk, Bool.and_eq_true, decide_eq_true_eq]

theorem State.hasChecksum_iff : s.hasChecksum = true ↔ 2 ≤ s.len ∧ s.len ≤ s.cfg.capacity := by
  simp only [State.hasChecksum, Bool.and_eq_true, decide_eq_true_eq]

theorem State.isMetric_iff (i : Nat) : s.isMetric i = true ↔ i < s.cfg.metricCount := by
  simp only [State.isMetric, decide_eq_true_eq]

theorem fitsSlot_iff (w : Nat) (q : Int) :
    fitsSlot w q = true ↔ -(2 ^ (w - 1) : Int) ≤ q ∧ q ≤ 2 ^ (w - 1) - 1 := by
  simp only [fitsSlot, Bool.and_eq_true, decide_eq_true_eq]

theorem State.patternAt_iff (pat : List Byte) (o : Nat) :
    s.patternAt pat o = true ↔ s.bufSlice o (o + pat.length) = pat := by
  simp only [State.patternAt, decide_eq_true_eq]

/-- Type code 5 is the signed one (R94). -/
theorem tagSigned_iff (tag : Byte) : tagSigned tag = true ↔ tagT tag = 5 := by
  revert tag; decide

/-! ### Time values and slot patterns keep to their widths (R6) -/

theorem timeOf_lt (w : Nat) (now : Time) : timeOf w now < 2 ^ w :=
  Nat.mod_lt _ (Nat.two_pow_pos w)

theorem timeOf_of_lt {w : Nat} {now : Time} (h : now < 2 ^ w) : timeOf w now = now :=
  Nat.mod_eq_of_lt h

/-- The low 64 bits of a time operand are all that a time register of at most 64 bits takes. -/
theorem timeOf_mod {w : Nat} (hw : w ≤ 64) (now : Time) : timeOf w (now % 256 ^ 8) = timeOf w now :=
  Nat.mod_mod_of_dvd _ (Nat.pow_dvd_pow 2 hw)

theorem slotBits_lt (w : Nat) (q : Int) : slotBits w q < 2 ^ w := by
  have hp : (0 : Int) < 2 ^ w := Int.pow_pos (by decide)
  have h := Int.emod_lt_of_pos q hp
  have h0 := Int.emod_nonneg q (Int.ne_of_gt hp)
  rw [slotBits, Int.toNat_lt h0]
  exact_mod_cast h

/-- The elapsed time does not change when `now` is cut to the register's width. -/
@[simp] theorem elapsedOf_timeOf (w : Nat) (now last : Time) :
    elapsedOf w (timeOf w now) last = elapsedOf w now last := by
  unfold elapsedOf timeOf
  push_cast
  rw [Int.emod_sub_emod]

/-- Nor when `last` was. -/
@[simp] theorem elapsedOf_timeOf_last (w : Nat) (now last : Time) :
    elapsedOf w now (timeOf w last) = elapsedOf w now last := by
  unfold elapsedOf timeOf
  push_cast
  rw [Int.sub_emod_emod]

/-! ### The meanings under their conditions -/

theorem execBufAppend_eq {b : Byte} {limit : Nat} (h : limit ≤ s.cfg.capacity) :
    execBufAppend b limit s =
      match s.bufAppend b limit with
      | (true, t) => .next (t.latch .done)
      | (false, t) => .next (t.latch .overflow) := if_neg (by omega)

theorem execBufSlice_eq {lo hi : Nat} (h : lo ≤ hi) (h' : hi ≤ s.len) (hc : s.len ≤ s.cfg.capacity) :
    execBufSlice lo hi s = .next (s.latch (.bytes (s.bufSlice lo hi))) :=
  (if_pos ((s.spanOk_iff lo hi).2 ⟨h, h'⟩)).trans (s.readingBuf_next hc _)

theorem execCrcSpan_eq {lo hi : Nat} (h : lo ≤ hi) (h' : hi ≤ s.len) (hc : s.len ≤ s.cfg.capacity) :
    execCrcSpan lo hi s = .next ((s.crcSpan lo hi).2.latch (.crc (s.crcSpan lo hi).1)) :=
  (if_pos ((s.spanOk_iff lo hi).2 ⟨h, h'⟩)).trans (s.readingBuf_next hc _)

theorem execCrcVerify_eq (h : 2 ≤ s.len) (hc : s.len ≤ s.cfg.capacity) :
    execCrcVerify s = .next (s.crcVerify.2.latch (.flag s.crcVerify.1)) :=
  if_pos (s.hasChecksum_iff.2 ⟨h, hc⟩)

theorem execMdFind_eq {i : Nat} (h : i < s.cfg.metricCount) (hc : s.len ≤ s.cfg.capacity) :
    execMdFind i s = .next (s.latch (.offset (s.findPattern (s.pattern i)))) :=
  (if_pos ((s.isMetric_iff i).2 h)).trans (s.readingBuf_next hc _)

theorem execMdDecode_eq {i : Nat} (h : i < s.cfg.metricCount) (hc : s.len ≤ s.cfg.capacity) :
    execMdDecode i s = .next (s.mdDecode i) :=
  (if_pos ((s.isMetric_iff i).2 h)).trans (s.readingBuf_next hc _)

theorem execMdAll_eq (hc : s.len ≤ s.cfg.capacity) : execMdAll s = .next s.mdAll :=
  s.readingBuf_next hc _

theorem execPubWrite_eq {i : Nat} (h : i < s.cfg.metricCount) :
    execPubWrite i s = .next (s.pubWrite i) := if_pos ((s.isMetric_iff i).2 h)

theorem State.inState_eq {q : FrameState} (h : s.st = q) (o : Outcome) : s.inState q o = o :=
  if_pos h

theorem State.inState_ne {q : FrameState} (h : s.st ≠ q) (o : Outcome) :
    s.inState q o = .refused .selectorMismatch := if_neg h

end Machine

end Sys2Proof
end

