-- ==== Sys2Proof/Laws/Framing.lean ====
section
/-! SUPPORT. The operations of the framing state machine, case by case: the equations to cite instead
of unfolding them. -/

namespace Sys2Proof.Machine

variable (s : State)

/-! ### BUF.APPEND -/

theorem State.bufAppend_overflow {b : Byte} {limit : Nat} (h : limit < s.len + 1) :
    s.bufAppend b limit = (false, s) := if_pos h

theorem State.bufAppend_ok {b : Byte} {limit : Nat} (h : s.len + 1 ≤ limit) :
    s.bufAppend b limit = (true, { s with buf := s.buf.write s.len b, len := s.len + 1 }) :=
  if_neg (by omega)

/-! ### TMO.CHK -/

theorem State.tmoChk_fires (h : s.cfg.timeoutT < elapsedOf s.cfg.timeWidth s.tnow s.tlast) :
    s.tmoChk = s.raise .timeout none := if_pos (s.timedOut_iff.2 h)

theorem State.tmoChk_quiet (h : elapsedOf s.cfg.timeWidth s.tnow s.tlast ≤ s.cfg.timeoutT) :
    s.tmoChk = s :=
  if_neg fun h' => by have := s.timedOut_iff.1 h'; omega

/-! ### RX.AS -/

theorem State.rxAs_match {b : Byte} (h : s.len < s.cfg.capacity)
    (hb : s.cfg.startMarker[s.len]? = some b) (hl : s.len + 1 ≠ s.cfg.startMarker.length) :
    s.rxAs b = .next { s with buf := s.buf.write s.len b, len := s.len + 1 } :=
  (if_pos h).trans ((if_pos hb).trans (if_neg hl))

theorem State.rxAs_last {b : Byte} (h : s.len < s.cfg.capacity)
    (hb : s.cfg.startMarker[s.len]? = some b) (hl : s.len + 1 = s.cfg.startMarker.length) :
    s.rxAs b =
      .next { s with buf := s.buf.write s.len b, len := s.len + 1, st := .accumulateBody } :=
  (if_pos h).trans ((if_pos hb).trans (if_pos hl))

theorem State.rxAs_miss {b : Byte} (h : s.len < s.cfg.capacity)
    (hb : s.cfg.startMarker[s.len]? ≠ some b) :
    s.rxAs b = .next { s with buf := s.buf.write s.len b, len := 0 } :=
  (if_pos h).trans (if_neg hb)

theorem State.rxAs_outside {b : Byte} (h : s.cfg.capacity ≤ s.len) :
    s.rxAs b = .fault .bufAddress := if_neg (by omega)

/-- Everything RX.AS can do when it answers a next state. -/
theorem State.rxAs_cases {b : Byte} {t : State} (h : s.rxAs b = .next t) :
    s.len < s.cfg.capacity ∧
    ((s.cfg.startMarker[s.len]? = some b ∧ s.len + 1 ≠ s.cfg.startMarker.length ∧
        t = { s with buf := s.buf.write s.len b, len := s.len + 1 }) ∨
      (s.cfg.startMarker[s.len]? = some b ∧ s.len + 1 = s.cfg.startMarker.length ∧
        t = { s with buf := s.buf.write s.len b, len := s.len + 1, st := .accumulateBody }) ∨
      (s.cfg.startMarker[s.len]? ≠ some b ∧
        t = { s with buf := s.buf.write s.len b, len := 0 })) := by
  by_cases hc : s.len < s.cfg.capacity
  · refine ⟨hc, ?_⟩
    by_cases hb : s.cfg.startMarker[s.len]? = some b
    · by_cases hl : s.len + 1 = s.cfg.startMarker.length
      · rw [s.rxAs_last hc hb hl] at h
        cases h
        exact .inr (.inl ⟨hb, hl, rfl⟩)
      · rw [s.rxAs_match hc hb hl] at h
        cases h
        exact .inl ⟨hb, hl, rfl⟩
    · rw [s.rxAs_miss hc hb] at h
      cases h
      exact .inr (.inr ⟨hb, rfl⟩)
  · rw [s.rxAs_outside (by omega)] at h
    cases h

/-! ### RX.AB -/

/-- The state after RX.AB has stored its byte. -/
def State.stored (b : Byte) (s : State) : State :=
  { s with buf := s.buf.write s.len b, len := s.len + 1 }

theorem State.rxAb_overflow {b : Byte} (h : s.cfg.capacity - s.cfg.reserve < s.len + 1) :
    s.rxAb b = s.raise .bufferOverflow none := by
  rw [State.rxAb, s.bufAppend_overflow h]

theorem State.rxAb_end {b : Byte} (h : s.len + 1 ≤ s.cfg.capacity - s.cfg.reserve)
    (he : (s.stored b).endMatched = true) :
    s.rxAb b =
      { s.stored b with st := .readTrailer, trem := BitVec.ofNat 2 s.cfg.trailerLen } := by
  rw [State.rxAb, s.bufAppend_ok h]
  exact if_pos he

theorem State.rxAb_body {b : Byte} (h : s.len + 1 ≤ s.cfg.capacity - s.cfg.reserve)
    (he : ¬ (s.stored b).endMatched = true) : s.rxAb b = s.stored b := by
  rw [State.rxAb, s.bufAppend_ok h]
  exact if_neg he

/-- Everything RX.AB can do. -/
theorem State.rxAb_cases (b : Byte) :
    (s.cfg.capacity - s.cfg.reserve < s.len + 1 ∧ s.rxAb b = s.raise .bufferOverflow none) ∨
    (s.len + 1 ≤ s.cfg.capacity - s.cfg.reserve ∧ (s.stored b).endMatched = true ∧
      s.rxAb b =
        { s.stored b with st := .readTrailer, trem := BitVec.ofNat 2 s.cfg.trailerLen }) ∨
    (s.len + 1 ≤ s.cfg.capacity - s.cfg.reserve ∧ ¬ (s.stored b).endMatched = true ∧
      s.rxAb b = s.stored b) := by
  by_cases h : s.len + 1 ≤ s.cfg.capacity - s.cfg.reserve
  · by_cases he : (s.stored b).endMatched = true
    · exact .inr (.inl ⟨h, he, s.rxAb_end h he⟩)
    · exact .inr (.inr ⟨h, he, s.rxAb_body h he⟩)
  · exact .inl ⟨by omega, s.rxAb_overflow (by omega)⟩

/-! ### RX.RT -/

theorem State.rxRt_more {b : Byte} (h : s.len + 1 ≤ s.cfg.capacity) (ht : s.trem ≠ 1) :
    s.rxRt b = { s.stored b with trem := s.trem - 1 } := by
  have h0 : ¬ (s.trem - 1 = 0) := by
    generalize s.trem = x at ht ⊢
    revert x; decide
  unfold State.rxRt
  rw [s.bufAppend_ok h]
  exact if_neg h0

theorem State.rxRt_last {b : Byte} (h : s.len + 1 ≤ s.cfg.capacity) (ht : s.trem = 1) :
    s.rxRt b = { s.stored b with trem := 0, st := .decode } := by
  have h0 : s.trem - 1 = 0 := by rw [ht]; rfl
  have h1 : s.rxRt b = { s.stored b with trem := s.trem - 1, st := .decode } := by
    unfold State.rxRt
    rw [s.bufAppend_ok h]
    exact if_pos h0
  rw [h1, h0]

/-- Where the buffer is full, RX.RT stores nothing; no run gets there (R118). -/
theorem State.rxRt_full {b : Byte} (h : s.cfg.capacity < s.len + 1) :
    s.rxRt b = if s.trem - 1 = 0 then { s with trem := s.trem - 1, st := .decode }
      else { s with trem := s.trem - 1 } := by
  unfold State.rxRt
  rw [s.bufAppend_overflow h]

/-! ### DECODE -/

theorem State.decodeFrame_mismatch (h : 2 ≤ s.len) (hc : s.len ≤ s.cfg.capacity)
    (hv : s.crcVerify.1 = false) :
    s.decodeFrame = .next (s.crcVerify.2.raise .checksumMismatch none) := by
  refine (if_pos (s.hasChecksum_iff.2 ⟨h, hc⟩)).trans ?_
  rcases hp : s.crcVerify with ⟨v, t⟩
  rw [hp] at hv
  subst hv
  rfl

theorem State.decodeFrame_valid (h : 2 ≤ s.len) (hc : s.len ≤ s.cfg.capacity)
    (hv : s.crcVerify.1 = true) :
    s.decodeFrame = .next s.crcVerify.2.mdAll.pubAll.enterAs := by
  refine (if_pos (s.hasChecksum_iff.2 ⟨h, hc⟩)).trans ?_
  rcases hp : s.crcVerify with ⟨v, t⟩
  rw [hp] at hv
  subst hv
  rfl

/-- Everything DECODE can do when it answers a next state. -/
theorem State.decodeFrame_cases {t : State} (h : s.decodeFrame = .next t) :
    2 ≤ s.len ∧ s.len ≤ s.cfg.capacity ∧
    ((s.crcVerify.1 = false ∧ t = s.crcVerify.2.raise .checksumMismatch none) ∨
      (s.crcVerify.1 = true ∧ t = s.crcVerify.2.mdAll.pubAll.enterAs)) := by
  by_cases hk : s.hasChecksum = true
  · obtain ⟨h2, hc⟩ := s.hasChecksum_iff.1 hk
    refine ⟨h2, hc, ?_⟩
    cases hv : s.crcVerify.1 with
    | false =>
      rw [s.decodeFrame_mismatch h2 hc hv] at h
      cases h
      exact .inl ⟨rfl, rfl⟩
    | true =>
      rw [s.decodeFrame_valid h2 hc hv] at h
      cases h
      exact .inr ⟨rfl, rfl⟩
  · have : s.decodeFrame = .fault .bufAddress := if_neg hk
    rw [this] at h
    cases h

/-- CRC.VERIFY leaves everything but the CRC register. -/
theorem State.crcVerify_state :
    s.crcVerify.2 = { s with crc := crcRun (s.bufSlice 0 (s.len - 2)) } := rfl

theorem State.crcVerify_flag : s.crcVerify.1 = decide (crcOf (s.bufSlice 0 (s.len - 2)) =
    storedChecksum (s.buf.read (s.len - 2)) (s.buf.read (s.len - 1))) := rfl

/-! ### The byte loop -/

theorem State.settle_decode (h : s.st = .decode) : s.settle = s.decodeFrame := if_pos h

theorem State.settle_other (h : s.st ≠ .decode) : s.settle = .next s := if_neg h

@[simp] theorem State.feed_nil : s.feed [] = .next s := rfl

theorem State.feed_cons (b : Byte) (bs : List Byte) :
    s.feed (b :: bs) = Outcome.andThen (Outcome.andThen (s.rx b) State.settle) (State.feed bs) := rfl

theorem State.feed_append (as bs : List Byte) :
    s.feed (as ++ bs) = Outcome.andThen (s.feed as) (State.feed bs) := by
  induction as generalizing s with
  | nil => rfl
  | cons a as ih =>
    rw [List.cons_append, State.feed_cons, State.feed_cons]
    cases Outcome.andThen (s.rx a) State.settle with
    | next u => exact ih u
    | fault _ => rfl
    | refused _ => rfl

theorem State.deliver_other (bs : List Byte) (h : s.st ≠ .decode) : s.deliver bs = s.feed bs := by
  rw [State.deliver, s.settle_other h, Outcome.andThen_next]

theorem State.rx_awaitStart (b : Byte) (h : s.st = .awaitStart) : s.rx b = s.rxAs b := by
  rw [State.rx, h]

theorem State.rx_accumulateBody (b : Byte) (h : s.st = .accumulateBody) :
    s.rx b = .next (s.rxAb b) := by rw [State.rx, h]

theorem State.rx_readTrailer (b : Byte) (h : s.st = .readTrailer) :
    s.rx b = .next (s.rxRt b) := by rw [State.rx, h]

theorem State.rx_decode (b : Byte) (h : s.st = .decode) : s.rx b = .refused .noByteInDecode := by
  rw [State.rx, h]

end Sys2Proof.Machine
end

