-- ==== Sys2Proof/Laws/Decoder.lean ====
section
/-! SUPPORT. The operations of the metric decoder, case by case, and what they leave alone. -/

namespace Sys2Proof.Machine

variable (s : State)

/-! ### MD.FIND -/

theorem State.findPattern_some {pat : List Byte} {o : Nat} :
    s.findPattern pat = some o ↔
      s.bufSlice o (o + pat.length) = pat ∧ o < s.len + 1 - pat.length ∧
      ∀ p < o, s.bufSlice p (p + pat.length) ≠ pat := by
  unfold State.findPattern
  rw [List.find?_range_eq_some]
  simp only [State.patternAt_iff, List.mem_range, Bool.not_eq_true', ne_eq]
  refine and_congr_right fun _ => and_congr_right fun _ => forall₂_congr fun p _ => ?_
  rw [← State.patternAt_iff, Bool.not_eq_true]

theorem State.findPattern_none {pat : List Byte} :
    s.findPattern pat = none ↔
      ∀ p < s.len + 1 - pat.length, s.bufSlice p (p + pat.length) ≠ pat := by
  unfold State.findPattern
  rw [List.find?_range_eq_none]
  refine forall₂_congr fun p _ => ?_
  rw [Bool.not_eq_true', ← Bool.not_eq_true, State.patternAt_iff]

theorem State.pattern_eq {i : Nat} {m : Metric} (h : s.cfg.metrics[i]? = some m) :
    s.pattern i = m.pattern := by
  rw [State.pattern, h]

/-! ### RD and the tag -/

theorem State.rd_ok {k : Nat} (h : k < s.len) : s.rd k = .ok (s.buf.read k) := if_neg (by omega)

theorem State.rd_fail {k : Nat} (h : s.len ≤ k) : s.rd k = .fail .outOfRange := if_pos h

theorem checkTag_good {tag : Byte} (hx : tagX tag = false) (hl : tagL tag ≠ 0) :
    checkTag tag s = (.ok (tagL tag).toNat, { s with tl := tag }) :=
  (if_neg (by rw [hx]; decide)).trans (if_neg hl)

theorem checkTag_bad {tag : Byte} (h : tagX tag = true ∨ tagL tag = 0) :
    checkTag tag s = (.fail .unsupportedFieldLength, { s with tl := tag }) := by
  by_cases hx : tagX tag = true
  · exact if_pos hx
  · exact (if_neg hx).trans (if_pos (h.resolve_left hx))

theorem atCursor_in {α : Type} (f : Byte → State → Res α × State) (h : s.cur < s.len) :
    atCursor f s = f (s.buf.read s.cur) s := by
  rw [atCursor, s.rd_ok h]

theorem atCursor_out {α : Type} (f : Byte → State → Res α × State) (h : s.len ≤ s.cur) :
    atCursor f s = (.fail .outOfRange, s) := by
  rw [atCursor, s.rd_fail h]

/-! ### The field operations -/

theorem skipField_good {tag : Byte} (hx : tagX tag = false) (hl : tagL tag ≠ 0) :
    skipField tag s = (.ok (), { s with tl := tag, cur := s.cur + (tagL tag).toNat }) := by
  rw [skipField, checkTag_good s hx hl]
  rfl

theorem skipField_bad {tag : Byte} (h : tagX tag = true ∨ tagL tag = 0) :
    skipField tag s = (.fail .unsupportedFieldLength, { s with tl := tag }) := by
  rw [skipField, checkTag_bad s h]
  rfl

theorem byteField_good {tag : Byte} (hx : tagX tag = false) (hl : tagL tag ≠ 0)
    (h : s.cur + 1 < s.len) :
    byteField tag s = (.ok (s.buf.read (s.cur + 1)),
      { s with tl := tag, cur := s.cur + (tagL tag).toNat }) := by
  rw [byteField, checkTag_good s hx hl]
  simp only [onOk]
  rw [State.rd_ok { s with tl := tag } h]

theorem byteField_short {tag : Byte} (hx : tagX tag = false) (hl : tagL tag ≠ 0)
    (h : s.len ≤ s.cur + 1) :
    byteField tag s = (.fail .outOfRange, { s with tl := tag }) := by
  rw [byteField, checkTag_good s hx hl]
  simp only [onOk]
  rw [State.rd_fail { s with tl := tag } h]

theorem byteField_bad {tag : Byte} (h : tagX tag = true ∨ tagL tag = 0) :
    byteField tag s = (.fail .unsupportedFieldLength, { s with tl := tag }) := by
  rw [byteField, checkTag_bad s h]
  rfl

/-- The accumulation loop within the frame: the bytes in address order. -/
theorem accLoop_ok {n k : Nat} (h : s.cur + k + n ≤ s.len) :
    accLoop n k s = (.ok (),
      { s with acc := (s.bufSlice (s.cur + k) (s.cur + k + n)).foldl accPush s.acc }) := by
  induction n generalizing k s with
  | zero => simp [accLoop, State.bufSlice]
  | succ n ih =>
    rw [accLoop, s.rd_ok (by omega)]
    refine (ih _ (k := k + 1) (by simp only; omega)).trans ?_
    simp only [State.bufSlice]
    rw [show s.cur + k + (n + 1) - (s.cur + k) = n + 1 by omega, List.range'_succ,
      show s.cur + (k + 1) + n - (s.cur + (k + 1)) = n by omega]
    rfl

/-- The accumulation loop that leaves the frame: it fails, and only `acc` may have changed. -/
theorem accLoop_short {n k : Nat} (hn : n ≠ 0) (h : s.len < s.cur + k + n) :
    ∃ a, accLoop n k s = (.fail .outOfRange, { s with acc := a }) := by
  induction n generalizing k s with
  | zero => exact absurd rfl hn
  | succ n ih =>
    by_cases hk : s.cur + k < s.len
    · rw [accLoop, s.rd_ok hk]
      obtain ⟨a, ha⟩ := ih { s with acc := accPush s.acc (s.buf.read (s.cur + k)) } (k := k + 1)
        (by omega) (by simp only; omega)
      exact ⟨a, ha⟩
    · rw [accLoop, s.rd_fail (by omega)]
      exact ⟨s.acc, rfl⟩

theorem valueField_good {tag : Byte} (hx : tagX tag = false) (hl : tagL tag ≠ 0)
    (h : s.cur + (tagL tag).toNat ≤ s.len) :
    valueField tag s =
      (.ok (rawValueOf s.cfg.signExt (tagSigned tag) ((tagL tag).toNat - 1)
          ((s.bufSlice (s.cur + 1) (s.cur + (tagL tag).toNat)).foldl accPush 0)),
        { s with
          tl := tag, cur := s.cur + 1,
          acc := (s.bufSlice (s.cur + 1) (s.cur + (tagL tag).toNat)).foldl accPush 0 }) := by
  have hp : 1 ≤ (tagL tag).toNat := by
    rcases Nat.eq_zero_or_pos (tagL tag).toNat with h0 | h0
    · exact absurd (BitVec.eq_of_toNat_eq h0) hl
    · exact h0
  rw [valueField, checkTag_good s hx hl]
  simp only [onOk]
  rw [accLoop_ok _ (by simp only; omega)]
  simp only [State.bufSlice, Nat.add_zero,
    show s.cur + 1 + ((tagL tag).toNat - 1) = s.cur + (tagL tag).toNat by omega]

theorem valueField_short {tag : Byte} (hx : tagX tag = false) (hl : tagL tag ≠ 0)
    (hc : s.cur < s.len) (h : s.len < s.cur + (tagL tag).toNat) :
    ∃ a, valueField tag s =
      (.fail .outOfRange, { s with tl := tag, cur := s.cur + 1, acc := a }) := by
  rw [valueField, checkTag_good s hx hl]
  simp only [onOk]
  obtain ⟨a, ha⟩ := accLoop_short { s with tl := tag, cur := s.cur + 1, acc := 0 }
    (n := (tagL tag).toNat - 1) (k := 0) (by omega) (by simp only; omega)
  rw [ha]
  exact ⟨a, rfl⟩

theorem valueField_bad {tag : Byte} (h : tagX tag = true ∨ tagL tag = 0) :
    valueField tag s = (.fail .unsupportedFieldLength, { s with tl := tag }) := by
  rw [valueField, checkTag_bad s h]
  rfl

/-! ### What the decoder leaves alone -/

/-- The states an operation of the decoder can reach before it stores its result: the three scratch
registers apart, nothing changes. -/
def State.Scratch (s t : State) : Prop := t = { s with cur := t.cur, tl := t.tl, acc := t.acc }

theorem State.Scratch.refl : s.Scratch s := rfl

variable {s}

theorem State.Scratch.trans {t u : State} (h : s.Scratch t) (h' : t.Scratch u) : s.Scratch u := by
  unfold State.Scratch at h h' ⊢
  rw [h', h]

theorem State.Scratch.dec {t : State} (h : s.Scratch t) : t.dec = s.dec := by rw [h]
theorem State.Scratch.out {t : State} (h : s.Scratch t) : t.out = s.out := by rw [h]
theorem State.Scratch.len {t : State} (h : s.Scratch t) : t.len = s.len := by rw [h]
theorem State.Scratch.buf {t : State} (h : s.Scratch t) : t.buf = s.buf := by rw [h]
theorem State.Scratch.cfg {t : State} (h : s.Scratch t) : t.cfg = s.cfg := by rw [h]

/-- What a result of the decoder can be: any value, or one of the two kinds of R180. -/
def Res.Kinds {α : Type} : Res α → Prop
  | .ok _ => True
  | .fail k => k = .unsupportedFieldLength ∨ k = .outOfRange

/-- A decoder operation in its frame. -/
def InFrame {α : Type} (s : State) (r : Res α × State) : Prop := s.Scratch r.2 ∧ r.1.Kinds

theorem InFrame.onOk {α β : Type} {r : Res α × State} {f : α → State → Res β × State}
    (h : InFrame s r) (hf : ∀ a t, s.Scratch t → InFrame t (f a t)) : InFrame s (onOk r f) := by
  obtain ⟨a | k, t⟩ := r
  · exact ⟨h.1.trans (hf a t h.1).1, (hf a t h.1).2⟩
  · exact h

theorem checkTag_frame (tag : Byte) (s : State) : InFrame s (checkTag tag s) := by
  unfold checkTag
  split
  · exact ⟨rfl, .inl rfl⟩
  · split
    · exact ⟨rfl, .inl rfl⟩
    · exact ⟨rfl, trivial⟩

theorem atCursor_frame {α : Type} {f : Byte → State → Res α × State}
    (hf : ∀ tag t, InFrame t (f tag t)) (s : State) : InFrame s (atCursor f s) := by
  by_cases h : s.cur < s.len
  · rw [atCursor_in s f h]
    exact hf _ s
  · rw [atCursor_out s f (by omega)]
    exact ⟨rfl, .inr rfl⟩

theorem skipField_frame (tag : Byte) (s : State) : InFrame s (skipField tag s) :=
  (checkTag_frame tag s).onOk fun _ _ _ => ⟨rfl, trivial⟩

theorem byteField_frame (tag : Byte) (s : State) : InFrame s (byteField tag s) :=
  (checkTag_frame tag s).onOk fun _ t _ => by
    by_cases h : t.cur + 1 < t.len
    · rw [t.rd_ok h]
      exact ⟨rfl, trivial⟩
    · rw [t.rd_fail (by omega)]
      exact ⟨rfl, .inr rfl⟩

theorem accLoop_frame (n k : Nat) (s : State) : InFrame s (accLoop n k s) := by
  by_cases h : s.cur + k + n ≤ s.len
  · rw [accLoop_ok s h]
    exact ⟨rfl, trivial⟩
  · by_cases hn : n = 0
    · subst hn
      exact ⟨rfl, trivial⟩
    · obtain ⟨a, ha⟩ := accLoop_short s hn (by omega : s.len < s.cur + k + n)
      rw [ha]
      exact ⟨rfl, .inr rfl⟩

theorem valueField_frame (tag : Byte) (s : State) : InFrame s (valueField tag s) :=
  (checkTag_frame tag s).onOk fun l t _ =>
    InFrame.onOk (s := t) (r := accLoop (l - 1) 0 { t with cur := t.cur + 1, acc := 0 })
      ⟨State.Scratch.trans (t := { t with cur := t.cur + 1, acc := 0 }) rfl (accLoop_frame _ _ _).1,
        (accLoop_frame _ _ _).2⟩
      fun _ _ _ => ⟨rfl, trivial⟩

theorem fiveFields_frame (s : State) : InFrame s (fiveFields s) :=
  (atCursor_frame skipField_frame s).onOk fun _ t _ =>
  (atCursor_frame skipField_frame t).onOk fun _ t _ =>
  (atCursor_frame byteField_frame t).onOk fun _ t _ =>
  (atCursor_frame byteField_frame t).onOk fun _ t _ =>
  (atCursor_frame valueField_frame t).onOk fun _ _ _ => ⟨rfl, trivial⟩

variable (s)

/-- Everything MD.DECODE can do: nothing found, five sound fields, or one report. -/
theorem State.mdDecode_cases (i : Nat) :
    (s.findPattern (s.pattern i) = none ∧ s.mdDecode i = { s with dec := s.dec.set i none }) ∨
    ∃ o cur tl acc, s.findPattern (s.pattern i) = some o ∧
      ((∃ v, (fiveFields { s with cur := o + (s.pattern i).length }).1 = .ok v ∧
          s.mdDecode i =
            { s with cur := cur, tl := tl, acc := acc, dec := s.dec.set i (some v) }) ∨
        ∃ k, (k = .unsupportedFieldLength ∨ k = .outOfRange) ∧
          (fiveFields { s with cur := o + (s.pattern i).length }).1 = .fail k ∧
          s.mdDecode i =
            { s with
              cur := cur, tl := tl, acc := acc, dec := s.dec.set i none,
              out := s.out ++ [.report k.code (some i)] }) := by
  unfold State.mdDecode
  cases hf : s.findPattern (s.pattern i) with
  | none => exact .inl ⟨rfl, rfl⟩
  | some o =>
    refine .inr ?_
    obtain ⟨hs, hk⟩ := fiveFields_frame { s with cur := o + (s.pattern i).length }
    rcases hr : fiveFields { s with cur := o + (s.pattern i).length } with ⟨v | k, t⟩
    · rw [hr] at hs
      obtain ⟨cur, tl, acc, rfl⟩ : ∃ cur tl acc, t = { s with cur := cur, tl := tl, acc := acc } :=
        ⟨_, _, _, hs⟩
      exact ⟨o, cur, tl, acc, rfl, .inl ⟨v, congrArg Prod.fst hr, by simp only [hr]⟩⟩
    · rw [hr] at hs hk
      obtain ⟨cur, tl, acc, rfl⟩ : ∃ cur tl acc, t = { s with cur := cur, tl := tl, acc := acc } :=
        ⟨_, _, _, hs⟩
      refine ⟨o, cur, tl, acc, rfl, .inr ⟨k, hk, congrArg Prod.fst hr, ?_⟩⟩
      simp only [hr]
      rcases hk with rfl | rfl <;> rfl

end Sys2Proof.Machine
end

