-- ==== Sys2Proof/Laws/PerInstr.lean ====
section
/-! SUPPORT. The statements made per operation: the word an operation is written as has the format and
the fixed bits of its row of the opcode table. -/

namespace Sys2Proof.Laws.RowBits

set_option Elab.async false

/-- The format, the mask and the match of an operation's row (spec/30_encoding.md R102, R105, R106); a
selector has no bits above its four, an index none above its five. The MARK and TRAILER rows have no
mask. -/
def row : Instr → Format × Byte × Byte
  | .reset _ _ => (.sel4, 0xFC, 0x08)
  | .tick _ _ _ => (.sel4, 0xFC, 0x04)
  | .rxAs _ => (.sel4, 0xFF, 0x00)
  | .rxAb _ => (.sel4, 0xFF, 0x01)
  | .rxRt _ => (.sel4, 0xFF, 0x02)
  | .rxDe _ => (.sel4, 0xFF, 0x03)
  | .decode => (.sel4, 0xFF, 0x0F)
  | .selNone _ => (.sel4, 0xFC, 0x0C)
  | .enterAs => (.uop, 0xFF, 0x00)
  | .tmoChk => (.uop, 0xFF, 0x01)
  | .bufReset => (.uop, 0xFF, 0x02)
  | .bufAppend _ _ => (.uop, 0xFF, 0x03)
  | .bufSlice _ _ => (.uop, 0xFF, 0x04)
  | .crcByte _ => (.uop, 0xFF, 0x05)
  | .crcSpan _ _ => (.uop, 0xFF, 0x06)
  | .crcVerify => (.uop, 0xFF, 0x07)
  | .mdFind _ => (.uop, 0xFF, 0x08)
  | .rd _ => (.uop, 0xFF, 0x09)
  | .tlvTag => (.uop, 0xFF, 0x0A)
  | .tlvSkip => (.uop, 0xFF, 0x0B)
  | .tlvU8 => (.uop, 0xFF, 0x0C)
  | .tlvS8 => (.uop, 0xFF, 0x0D)
  | .tlvVal => (.uop, 0xFF, 0x0E)
  | .mdDecode _ => (.uop, 0xFF, 0x0F)
  | .mdAll => (.uop, 0xFF, 0x10)
  | .pubScale _ _ => (.uop, 0xFF, 0x11)
  | .pubWrite _ => (.uop, 0xFF, 0x12)
  | .pubAll => (.uop, 0xFF, 0x13)
  | .tlvExt _ _ _ => (.tag8, 0x80, 0x80)
  | .tlvZero _ _ => (.tag8, 0x8F, 0x00)
  | .tlvSigned _ => (.tag8, 0xF0, 0x50)
  | .tlvUnsignedT0 _ => (.tag8, 0xF0, 0x00)
  | .tlvUnsignedT1 _ => (.tag8, 0xF0, 0x10)
  | .tlvUnsignedT2 _ => (.tag8, 0xF0, 0x20)
  | .tlvUnsignedT3 _ => (.tag8, 0xF0, 0x30)
  | .tlvUnsignedT4 _ => (.tag8, 0xF0, 0x40)
  | .tlvUnsignedT6 _ => (.tag8, 0xF0, 0x60)
  | .tlvUnsignedT7 _ => (.tag8, 0xF0, 0x70)
  | .tlvAny _ _ _ => (.tag8, 0x80, 0x00)
  | .startMark => (.mark, 0xFF, 0x1B)
  | .endMark => (.mark, 0xFF, 0x1B)
  | .trailer _ _ _ => (.trailer, 0x00, 0x00)

/-- A well-formed operation is written with its row's format and fixed bits. -/
def Statement (i : Instr) : Prop :=
  i.wf = true → ∃ (c : Byte) (ops : List Byte),
    encode i = ⟨(row i).1, c :: ops⟩ ∧ c &&& (row i).2.1 = (row i).2.2

theorem reset (ss : FrameState) (now : Time) : Statement (.reset ss now) :=
  fun _ => ⟨_, _, rfl, by clear * -; simp only [row]; cases ss <;> decide⟩

theorem tick (ss : FrameState) (now : Time) (bs : List Byte) : Statement (.tick ss now bs) :=
  fun _ => ⟨_, _, rfl, by clear * -; simp only [row]; cases ss <;> decide⟩

theorem rxAs (b : Byte) : Statement (.rxAs b) :=
  fun _ => ⟨_, _, rfl, by clear * -; simp only [row]; decide⟩

theorem rxAb (b : Byte) : Statement (.rxAb b) :=
  fun _ => ⟨_, _, rfl, by clear * -; simp only [row]; decide⟩

theorem rxRt (b : Byte) : Statement (.rxRt b) :=
  fun _ => ⟨_, _, rfl, by clear * -; simp only [row]; decide⟩

theorem rxDe (b : Byte) : Statement (.rxDe b) :=
  fun _ => ⟨_, _, rfl, by clear * -; simp only [row]; decide⟩

theorem decode : Statement .decode :=
  fun _ => ⟨_, _, rfl, by clear * -; simp only [row]; decide⟩

theorem selNone (ss : FrameState) : Statement (.selNone ss) :=
  fun _ => ⟨_, _, rfl, by clear * -; simp only [row]; cases ss <;> decide⟩

theorem enterAs : Statement .enterAs :=
  fun _ => ⟨_, _, rfl, by clear * -; simp only [row]; decide⟩

theorem tmoChk : Statement .tmoChk :=
  fun _ => ⟨_, _, rfl, by clear * -; simp only [row]; decide⟩

theorem bufReset : Statement .bufReset :=
  fun _ => ⟨_, _, rfl, by clear * -; simp only [row]; decide⟩

theorem bufAppend (b : Byte) (limit : Nat) : Statement (.bufAppend b limit) :=
  fun _ => ⟨_, _, rfl, by clear * -; simp only [row]; decide⟩

theorem bufSlice (lo : Nat) (hi : Nat) : Statement (.bufSlice lo hi) :=
  fun _ => ⟨_, _, rfl, by clear * -; simp only [row]; decide⟩

theorem crcByte (b : Byte) : Statement (.crcByte b) :=
  fun _ => ⟨_, _, rfl, by clear * -; simp only [row]; decide⟩

theorem crcSpan (lo : Nat) (hi : Nat) : Statement (.crcSpan lo hi) :=
  fun _ => ⟨_, _, rfl, by clear * -; simp only [row]; decide⟩

theorem crcVerify : Statement .crcVerify :=
  fun _ => ⟨_, _, rfl, by clear * -; simp only [row]; decide⟩

theorem mdFind (i : Nat) : Statement (.mdFind i) :=
  fun _ => ⟨_, _, rfl, by clear * -; simp only [row]; decide⟩

theorem rd (k : Nat) : Statement (.rd k) :=
  fun _ => ⟨_, _, rfl, by clear * -; simp only [row]; decide⟩

theorem tlvTag : Statement .tlvTag :=
  fun _ => ⟨_, _, rfl, by clear * -; simp only [row]; decide⟩

theorem tlvSkip : Statement .tlvSkip :=
  fun _ => ⟨_, _, rfl, by clear * -; simp only [row]; decide⟩

theorem tlvU8 : Statement .tlvU8 :=
  fun _ => ⟨_, _, rfl, by clear * -; simp only [row]; decide⟩

theorem tlvS8 : Statement .tlvS8 :=
  fun _ => ⟨_, _, rfl, by clear * -; simp only [row]; decide⟩

theorem tlvVal : Statement .tlvVal :=
  fun _ => ⟨_, _, rfl, by clear * -; simp only [row]; decide⟩

theorem mdDecode (i : Nat) : Statement (.mdDecode i) :=
  fun _ => ⟨_, _, rfl, by clear * -; simp only [row]; decide⟩

theorem mdAll : Statement .mdAll :=
  fun _ => ⟨_, _, rfl, by clear * -; simp only [row]; decide⟩

theorem pubScale (rv : AccWord) (sc : Byte) : Statement (.pubScale rv sc) :=
  fun _ => ⟨_, _, rfl, by clear * -; simp only [row]; decide⟩

theorem pubWrite (i : Nat) : Statement (.pubWrite i) :=
  fun _ => ⟨_, _, rfl, by clear * -; simp only [row]; decide⟩

theorem pubAll : Statement .pubAll :=
  fun _ => ⟨_, _, rfl, by clear * -; simp only [row]; decide⟩

theorem tlvExt (f : Field) (t : BitVec 3) (l : BitVec 4) : Statement (.tlvExt f t l) :=
  fun _ => ⟨_, _, rfl, by clear * -; simp only [row]; revert t l; decide⟩

theorem tlvZero (f : Field) (t : BitVec 3) : Statement (.tlvZero f t) :=
  fun _ => ⟨_, _, rfl, by clear * -; simp only [row]; revert t; decide⟩

theorem tlvSigned (l : BitVec 4) : Statement (.tlvSigned l) :=
  fun _ => ⟨_, _, rfl, by clear * -; simp only [row]; revert l; decide⟩

theorem tlvUnsignedT0 (l : BitVec 4) : Statement (.tlvUnsignedT0 l) :=
  fun _ => ⟨_, _, rfl, by clear * -; simp only [row]; revert l; decide⟩

theorem tlvUnsignedT1 (l : BitVec 4) : Statement (.tlvUnsignedT1 l) :=
  fun _ => ⟨_, _, rfl, by clear * -; simp only [row]; revert l; decide⟩

theorem tlvUnsignedT2 (l : BitVec 4) : Statement (.tlvUnsignedT2 l) :=
  fun _ => ⟨_, _, rfl, by clear * -; simp only [row]; revert l; decide⟩

theorem tlvUnsignedT3 (l : BitVec 4) : Statement (.tlvUnsignedT3 l) :=
  fun _ => ⟨_, _, rfl, by clear * -; simp only [row]; revert l; decide⟩

theorem tlvUnsignedT4 (l : BitVec 4) : Statement (.tlvUnsignedT4 l) :=
  fun _ => ⟨_, _, rfl, by clear * -; simp only [row]; revert l; decide⟩

theorem tlvUnsignedT6 (l : BitVec 4) : Statement (.tlvUnsignedT6 l) :=
  fun _ => ⟨_, _, rfl, by clear * -; simp only [row]; revert l; decide⟩

theorem tlvUnsignedT7 (l : BitVec 4) : Statement (.tlvUnsignedT7 l) :=
  fun _ => ⟨_, _, rfl, by clear * -; simp only [row]; revert l; decide⟩

theorem tlvAny (f : Field) (t : BitVec 3) (l : BitVec 4) : Statement (.tlvAny f t l) :=
  fun _ => ⟨_, _, rfl, by clear * -; simp only [row]; revert t l; decide⟩

theorem startMark : Statement .startMark :=
  fun _ => ⟨_, _, rfl, by clear * -; simp only [row]; decide⟩

theorem endMark : Statement .endMark :=
  fun _ => ⟨_, _, rfl, by clear * -; simp only [row]; decide⟩

theorem trailer (fill : Byte) (lo : Byte) (hi : Byte) : Statement (.trailer fill lo hi) :=
  fun _ => ⟨_, _, rfl, BitVec.and_zero⟩

end Sys2Proof.Laws.RowBits
end

