-- ==== Sys2Proof/Laws/Publisher.lean ====
section
/-! SUPPORT. The publisher case by case, and the passes over all metrics as one induction each. -/

namespace Sys2Proof.Machine

variable (s : State)

/-! ### PUB.WRITE -/

theorem State.pubWrite_absent {i : Nat} (h : s.dec[i]?.join = none) : s.pubWrite i = s := by
  rw [State.pubWrite, h]

theorem State.pubWrite_noSlot {i : Nat} {v : DecodedValue} (h : s.dec[i]?.join = some v)
    (hn : s.cfg.slotCount ≤ i) :
    s.pubWrite i = { s with out := s.out ++ [.report 4 (some i)] } := by
  rw [State.pubWrite, h]
  exact if_pos hn

theorem State.pubWrite_fits {i : Nat} {v : DecodedValue} (h : s.dec[i]?.join = some v)
    (hn : i < s.cfg.slotCount) (hf : fitsSlot s.cfg.slotWidth v.scaled = true) :
    s.pubWrite i =
      { s with
        slots := s.slots.set i (slotBits s.cfg.slotWidth v.scaled),
        out := s.out ++ [.slotwr i (slotBits s.cfg.slotWidth v.scaled)] } := by
  rw [State.pubWrite, h]
  exact (if_neg (by omega)).trans (if_pos hf)

theorem State.pubWrite_range {i : Nat} {v : DecodedValue} (h : s.dec[i]?.join = some v)
    (hn : i < s.cfg.slotCount) (hf : ¬ fitsSlot s.cfg.slotWidth v.scaled = true) :
    s.pubWrite i = { s with out := s.out ++ [.report 7 (some i)] } := by
  rw [State.pubWrite, h]
  exact (if_neg (by omega)).trans (if_neg hf)

/-- Everything PUB.WRITE can do. -/
theorem State.pubWrite_cases (i : Nat) :
    s.pubWrite i = s ∨
    (∃ n, s.pubWrite i = { s with out := s.out ++ [.report n (some i)] }) ∨
    ∃ v, v < 2 ^ s.cfg.slotWidth ∧
      s.pubWrite i = { s with slots := s.slots.set i v, out := s.out ++ [.slotwr i v] } := by
  cases h : s.dec[i]?.join with
  | none => exact .inl (s.pubWrite_absent h)
  | some v =>
    by_cases hn : s.cfg.slotCount ≤ i
    · exact .inr (.inl ⟨4, s.pubWrite_noSlot h hn⟩)
    · by_cases hf : fitsSlot s.cfg.slotWidth v.scaled = true
      · exact .inr (.inr ⟨_, slotBits_lt _ _, s.pubWrite_fits h (by omega) hf⟩)
      · exact .inr (.inl ⟨7, s.pubWrite_range h (by omega) hf⟩)

/-! ### The passes over all metrics -/

/-- What every single operation of a pass keeps, the pass keeps. -/
theorem foldl_keeps {α β : Type} (P : α → Prop) {f : α → β → α}
    (hf : ∀ a b, P a → P (f a b)) : ∀ (l : List β) (a : α), P a → P (l.foldl f a)
  | [], _, h => h
  | b :: l, a, h => foldl_keeps P hf l (f a b) (hf a b h)

/-- MD.ALL keeps what MD.DECODE keeps. -/
theorem State.mdAll_keeps (P : State → Prop) (hf : ∀ t i, P t → P (t.mdDecode i)) (h : P s) :
    P s.mdAll := foldl_keeps P (fun t i => hf t i) _ s h

/-- PUB.ALL keeps what PUB.WRITE keeps. -/
theorem State.pubAll_keeps (P : State → Prop) (hf : ∀ t i, P t → P (t.pubWrite i)) (h : P s) :
    P s.pubAll := foldl_keeps P (fun t i => hf t i) _ s h

/-! ### The checksum over a span -/

theorem crcRun_append (as bs : List Byte) : crcRun (as ++ bs) = bs.foldl crcByte (crcRun as) :=
  List.foldl_append

/-- The register's final exclusive or undoes itself. -/
theorem crcOf_eq_iff (bs : List Byte) (c : CrcWord) :
    crcOf bs = c ↔ crcRun bs = c ^^^ crcXorOut := by
  unfold crcOf
  constructor
  · rintro rfl
    rw [BitVec.xor_assoc, BitVec.xor_self, BitVec.xor_zero]
  · intro h
    rw [h, BitVec.xor_assoc, BitVec.xor_self, BitVec.xor_zero]

end Sys2Proof.Machine
end

