-- ==== Sys2Proof/Tests/Slice0.lean ====
section
/-! SUPPORT. Tests: the ill-formed terms, the decoding of words written out from the tables, the worked
examples of the spec's rules, and for each statement for the provers that has hypotheses a state and
operands that meet them. Expected results are the spec's own. -/

namespace Sys2Proof.Tests

open Sys2Proof Sys2Proof.Machine

set_option Elab.async false

/-! ### Helpers -/

/-- The reset state with bytes in the buffer. -/
def holding (q : FrameState) (bs : List Byte) : State :=
  { State.reset with
    st := q, len := bs.length,
    buf := ((List.range bs.length).zip bs).foldl (fun m p => Memory.write m p.1 p.2) [] }

/-- The reset state in a framing state, with a length and an empty buffer. -/
def lengthOnly (q : FrameState) (n : Nat) : State := { State.reset with st := q, len := n }

/-- The next state, if the outcome is one. -/
def nextState : Outcome → Option State
  | .next s => some s
  | .fault _ => none
  | .refused _ => none

/-- What the next state latched. -/
def retOf (o : Outcome) : Option OpResult := (nextState o).map State.ret

/-- What the next state has emitted. -/
def outOf (o : Outcome) : Option (List Output) := (nextState o).map State.out

/-- The body of the spec's example frame (R198's example entry after the pattern). -/
def body1 : List Byte :=
  [0x77, 0x07, 0x01, 0x00, 0x01, 0x08, 0x00, 0xFF, 0x01, 0x01, 0x02, 0x1E, 0x02, 0xFF, 0x53, 0x01, 0x2C]

/-- The trailer of the example frame: fillCount, checksum low byte, checksum high byte (R134). -/
def trailer1 : List Byte := [0x00, 0x82, 0xDA]

/-- The 33-byte frame of program P1 (spec/95_test_vectors.md). -/
def frame1 : List Byte := frameHead Config.reference body1 ++ trailer1

/-! ### WellFormed refuses -/

theorem test_wf_selNone : (Instr.selNone .decode).wf = false := by decide
theorem test_wf_limit : (Instr.bufAppend 0 65536).wf = false := by decide
theorem test_wf_span_order :
    (Instr.bufSlice 3 2).wf = false ∧ (Instr.crcSpan 3 2).wf = false := by decide
theorem test_wf_span_size :
    (Instr.bufSlice 0 65536).wf = false ∧ (Instr.crcSpan 0 65536).wf = false := by decide
theorem test_wf_index :
    (Instr.mdFind 65536).wf = false ∧ (Instr.mdDecode 65536).wf = false ∧
    (Instr.pubWrite 65536).wf = false ∧ (Instr.rd 65536).wf = false := by decide
theorem test_wf_zero_length :
    (Instr.tlvSigned 0).wf = false ∧ (Instr.tlvUnsignedT0 0).wf = false ∧
    (Instr.tlvUnsignedT1 0).wf = false ∧ (Instr.tlvUnsignedT2 0).wf = false ∧
    (Instr.tlvUnsignedT3 0).wf = false ∧ (Instr.tlvUnsignedT4 0).wf = false ∧
    (Instr.tlvUnsignedT6 0).wf = false ∧ (Instr.tlvUnsignedT7 0).wf = false ∧
    (Instr.tlvAny .unit 1 0).wf = false := by decide
theorem test_wf_time :
    (Instr.reset .awaitStart 18446744073709551616).wf = false ∧
    (Instr.tick .awaitStart 18446744073709551616 []).wf = false := by decide
theorem test_wf_any_value : (Instr.tlvAny .value 1 2).wf = false := by decide

/-! ### A configuration that R7 refuses -/

theorem test_config_reference : Config.reference.wf = true := by decide
theorem test_config_refuses :
    { Config.reference with capacity := 15 }.wf = false ∧
    { Config.reference with reserve := 2 }.wf = false ∧
    { Config.reference with capacity := 4096 }.wf = false ∧
    { Config.reference with startMarker := [1] }.wf = false ∧
    { Config.reference with endMarker := [1] }.wf = false ∧
    { Config.reference with trailerLen := 0, reserve := 0 }.wf = false ∧
    { Config.reference with trailerLen := 4, reserve := 4 }.wf = false ∧
    { Config.reference with metrics := [⟨"empty", []⟩] }.wf = false := by decide
theorem test_config_refuses_widths :
    { Config.reference with slotWidth := 0 }.wf = false ∧
    { Config.reference with timeWidth := 65 }.wf = false ∧
    { Config.reference with timeUnit := 0 }.wf = false ∧
    { Config.reference with timeUnit := 7 }.wf = false := by decide

/-! ### Decoding words written out from the tables -/

theorem test_decode_sel4 :
    decode ⟨.sel4, [0b1011, 0xF4, 0x01, 0, 0, 0, 0, 0, 0]⟩ = .instr (.reset .decode 500) ∧
    decode ⟨.sel4, [0b0100, 0x01, 0, 0, 0, 0, 0, 0, 0, 0xAA, 0xBB]⟩ =
      .instr (.tick .awaitStart 1 [0xAA, 0xBB]) ∧
    decode ⟨.sel4, [0b0000, 0x1B]⟩ = .instr (.rxAs 0x1B) ∧
    decode ⟨.sel4, [0b0001, 0x1B]⟩ = .instr (.rxAb 0x1B) ∧
    decode ⟨.sel4, [0b0010, 0x1B]⟩ = .instr (.rxRt 0x1B) ∧
    decode ⟨.sel4, [0b0011, 0x1B]⟩ = .instr (.rxDe 0x1B) ∧
    decode ⟨.sel4, [0b1111]⟩ = .instr .decode ∧
    decode ⟨.sel4, [0b1100]⟩ = .instr (.selNone .awaitStart) ∧
    decode ⟨.sel4, [0b1110]⟩ = .instr (.selNone .readTrailer) := by decide

theorem test_decode_uop :
    decode ⟨.uop, [0b00000]⟩ = .instr .enterAs ∧
    decode ⟨.uop, [0b00001]⟩ = .instr .tmoChk ∧
    decode ⟨.uop, [0b00010]⟩ = .instr .bufReset ∧
    decode ⟨.uop, [0b00011, 0x1A, 0xFD, 0x0E]⟩ = .instr (.bufAppend 0x1A 3837) ∧
    decode ⟨.uop, [0b00100, 0x00, 0x00, 0x08, 0x00]⟩ = .instr (.bufSlice 0 8) ∧
    decode ⟨.uop, [0b00101, 0x1B]⟩ = .instr (.crcByte 0x1B) ∧
    decode ⟨.uop, [0b00110, 0x01, 0x00, 0x1F, 0x00]⟩ = .instr (.crcSpan 1 31) ∧
    decode ⟨.uop, [0b00111]⟩ = .instr .crcVerify ∧
    decode ⟨.uop, [0b01000, 0x02, 0x01]⟩ = .instr (.mdFind 258) ∧
    decode ⟨.uop, [0b01001, 0x20, 0x00]⟩ = .instr (.rd 32) := by decide

theorem test_decode_uop_rest :
    decode ⟨.uop, [0b01010]⟩ = .instr .tlvTag ∧
    decode ⟨.uop, [0b01011]⟩ = .instr .tlvSkip ∧
    decode ⟨.uop, [0b01100]⟩ = .instr .tlvU8 ∧
    decode ⟨.uop, [0b01101]⟩ = .instr .tlvS8 ∧
    decode ⟨.uop, [0b01110]⟩ = .instr .tlvVal ∧
    decode ⟨.uop, [0b01111, 0x01, 0x00]⟩ = .instr (.mdDecode 1) ∧
    decode ⟨.uop, [0b10000]⟩ = .instr .mdAll ∧
    decode ⟨.uop, [0b10001, 0x2C, 0x01, 0, 0, 0, 0, 0, 0, 0xFF]⟩ = .instr (.pubScale 300 0xFF) ∧
    decode ⟨.uop, [0b10010, 0x03, 0x00]⟩ = .instr (.pubWrite 3) ∧
    decode ⟨.uop, [0b10011]⟩ = .instr .pubAll := by decide

theorem test_decode_tag8 :
    decode ⟨.tag8, [0b11010011, 0]⟩ = .instr (.tlvExt .value 5 3) ∧
    decode ⟨.tag8, [0b01010000, 2]⟩ = .instr (.tlvZero .time 5) ∧
    decode ⟨.tag8, [0b01010011, 0]⟩ = .instr (.tlvSigned 3) ∧
    decode ⟨.tag8, [0b00000001, 0]⟩ = .instr (.tlvUnsignedT0 1) ∧
    decode ⟨.tag8, [0b00010010, 0]⟩ = .instr (.tlvUnsignedT1 2) ∧
    decode ⟨.tag8, [0b00100011, 0]⟩ = .instr (.tlvUnsignedT2 3) ∧
    decode ⟨.tag8, [0b00110100, 0]⟩ = .instr (.tlvUnsignedT3 4) ∧
    decode ⟨.tag8, [0b01000101, 0]⟩ = .instr (.tlvUnsignedT4 5) ∧
    decode ⟨.tag8, [0b01100110, 0]⟩ = .instr (.tlvUnsignedT6 6) ∧
    decode ⟨.tag8, [0b01110111, 0]⟩ = .instr (.tlvUnsignedT7 7) ∧
    decode ⟨.tag8, [0b01011111, 1]⟩ = .instr (.tlvAny .status 5 15) := by decide

theorem test_decode_mark_trailer :
    decode ⟨.mark, [0x1B, 0x1B, 0x1B, 0x1B, 0x01, 0x01, 0x01, 0x01]⟩ = .instr .startMark ∧
    decode ⟨.mark, [0x1B, 0x1B, 0x1B, 0x1B, 0x1A]⟩ = .instr .endMark ∧
    decode ⟨.trailer, [0x00, 0x82, 0xDA]⟩ = .instr (.trailer 0x00 0x82 0xDA) := by decide

theorem test_decode_rejects :
    decode ⟨.sel4, []⟩ = .reject .emptyWord ∧
    decode ⟨.sel4, [0x10]⟩ = .reject .selectorTooWide ∧
    decode ⟨.sel4, [0b0000]⟩ = .reject .badOperands ∧
    decode ⟨.uop, [0b10100]⟩ = .reject .unknownUop ∧
    decode ⟨.uop, [0b11111]⟩ = .reject .unknownUop ∧
    decode ⟨.uop, [0b00100, 3, 0, 2, 0]⟩ = .reject .badSpan ∧
    decode ⟨.tag8, [0x53, 5]⟩ = .reject .unknownField ∧
    decode ⟨.mark, [0x1B, 0x1B, 0x1B, 0x1B, 0x1B]⟩ = .reject .unknownMark := by decide

theorem test_table_words :
    decodeTableWord 4 0b1111 = some .decode ∧
    decodeTableWord 5 0b10011 = some .pubAll ∧
    decodeTableWord 8 0b10000 = some .mdAll ∧
    decodeTableWord 8 0b01010011 = some (.tlvSigned 3) ∧
    decodeTableWord 64 0x010101011B1B1B1B = some .startMark ∧
    decodeTableWord 40 0x1A1B1B1B1B = some .endMark ∧
    decodeTableWord 24 0xDA8200 = some (.trailer 0x00 0x82 0xDA) := by decide

/-! ### The worked examples of the rules -/

/-- R270's example. -/
theorem test_reset : nextState (exec (.reset .readTrailer 500)
    { lengthOnly .readTrailer 31 with trem := 2 }) =
    some { State.reset with trem := 2, tlast := 500, tnow := 500 } := by decide +kernel

/-- R147's example. -/
theorem test_enterAs : nextState (exec .enterAs { lengthOnly .accumulateBody 20 with tnow := 30001 }) =
    some { State.reset with tnow := 30001, tlast := 30001 } := by decide +kernel

/-- R149's example: 30000 does not fire. -/
theorem test_timeout_not_yet :
    nextState (exec (.tick .accumulateBody 30000 []) (lengthOnly .accumulateBody 20)) =
    some { lengthOnly .accumulateBody 20 with tnow := 30000 } := by decide +kernel

/-- R149's example: 30001 fires. -/
theorem test_timeout : nextState (exec (.tick .accumulateBody 30001 []) (lengthOnly .accumulateBody 20)) =
    some { State.reset with tnow := 30001, tlast := 30001, out := [.report 5 none] } := by
  decide +kernel

/-- R151's example, and R152 (b): a fifth 1B before the 01 bytes is missed. -/
theorem test_start : (nextState (exec .startMark State.reset)).map (fun s => (s.st, s.len)) =
    some (.accumulateBody, 8) := by decide +kernel
/-- R149 (d), R283: the wrap of `now` from 2^32 - 1 to 0 is harmless. -/
theorem test_timeout_wrap : elapsedOf 32 5 4294967295 = 6 := by decide

/-- A tick in its fine-grained steps: the first one samples the time, checks it and keeps the bytes. -/
theorem test_tickSteps : (nextState (step
    { lengthOnly .accumulateBody 20 with pend := [.tickSteps 30001 [0x1B], .reset 7] })).map
    (fun s => (s.st, s.tlast, s.rest, s.pend)) =
    some (.awaitStart, 30001, [0x1B], [.reset 7]) := by decide +kernel
/-- Its bytes come before the next event (R17). -/
theorem test_tickSteps_byte : (nextState (step { State.reset with rest := [0x1B], pend := [.reset 7] })).map
    (fun s => (s.len, s.rest, s.pend)) = some (1, [], [.reset 7]) := by decide +kernel

/-- A configuration with other widths and another time unit: 30 s in units of 10 ms, 16-bit slots. -/
def coarse : State :=
  { State.reset with
    cfg := { Config.reference with timeUnit := 10000, timeWidth := 16, slotWidth := 16 } }
theorem test_timeout_units :
    outOf (exec (.tick .awaitStart 3000 []) coarse) = some [] ∧
    outOf (exec (.tick .awaitStart 3001 []) coarse) = some [.report 5 none] := by decide +kernel

theorem test_start_missed : (nextState (exec (.tick .awaitStart 0
    [0x1B, 0x1B, 0x1B, 0x1B, 0x1B, 1, 1, 1, 1]) State.reset)).map (fun s => (s.st, s.len)) =
    some (.awaitStart, 0) := by decide +kernel

/-- R152 (a): the mismatching byte is not tried as a first byte. -/
theorem test_rxAs_miss : (nextState (exec (.rxAs 0x1B)
    (holding .awaitStart [0x1B, 0x1B, 0x1B, 0x1B]))).map State.len = some 0 := by decide +kernel

/-- R154: at 3836 the byte is stored, at 3837 refused. -/
theorem test_rxAb_last : (nextState (exec (.rxAb 0x2C) (lengthOnly .accumulateBody 3836))).map State.len =
    some 3837 := by decide +kernel
theorem test_rxAb_overflow : outOf (exec (.rxAb 0x2C) (lengthOnly .accumulateBody 3837)) =
    some [.report 1 none] := by decide +kernel

/-- R153's example. -/
theorem test_end : (nextState (exec .endMark (holding .accumulateBody (startBytes ++ body1)))).map
    (fun s => (s.st, s.len, s.trem)) = some (.readTrailer, 30, 3) := by decide +kernel

/-- R156's example: the three bytes, one by one. -/
theorem test_rxRt : (nextState (exec (.rxRt 0x00)
    { holding .readTrailer (frame1.take 30) with trem := 3 })).map (fun s => (s.st, s.len, s.trem)) =
    some (.readTrailer, 31, 2) := by decide +kernel
theorem test_rxRt_last : (nextState (exec (.rxRt 0xDA)
    { holding .readTrailer (frame1.take 32) with trem := 1 })).map (fun s => (s.st, s.len, s.trem)) =
    some (.decode, 33, 0) := by decide +kernel

theorem test_rxDe : exec (.rxDe 0) State.reset = .refused .noByteInDecode := rfl
theorem test_selNone : exec (.selNone .awaitStart) State.reset = .next State.reset := rfl

/-- Program P1: the frame in one tick. -/
theorem test_tick_frame : (nextState (exec (.tick .awaitStart 1000 frame1) State.reset)).map
    (fun s => (s.st, s.len, s.tlast, s.out, s.slots)) =
    some (.awaitStart, 0, 1000, [.slotwr 0 0x00007530], [0x00007530, 0, 0, 0]) := by decide +kernel

/-- The same frame with one bit of the checksum flipped (R136). -/
theorem test_trailer_mismatch : outOf (exec (.trailer 0x00 0x83 0xDA)
    { holding .readTrailer (frame1.take 30) with trem := 3 }) = some [.report 2 none] := by
  decide +kernel
theorem test_trailer : outOf (exec (.trailer 0x00 0x82 0xDA)
    { holding .readTrailer (frame1.take 30) with trem := 3 }) = some [.slotwr 0 0x00007530] := by
  decide +kernel
theorem test_decode : outOf (exec .decode (holding .decode frame1)) =
    some [.slotwr 0 0x00007530] := by decide +kernel

/-- R117's example. -/
theorem test_bufAppend : (nextState (exec (.bufAppend 0x1A 3837) (lengthOnly .awaitStart 3836))).map
    (fun s => (s.len, s.buf, s.ret)) = some (3837, [(3836, 0x1A)], .done) := by decide +kernel
theorem test_bufAppend_overflow : retOf (exec (.bufAppend 0x1A 3837) (lengthOnly .awaitStart 3837)) =
    some .overflow := by decide +kernel
theorem test_bufReset : (nextState (exec .bufReset (lengthOnly .awaitStart 3837))).map State.len =
    some 0 := by decide +kernel
theorem test_bufSlice : retOf (exec (.bufSlice 0 8) (holding .accumulateBody startBytes)) =
    some (.bytes startBytes) := by decide +kernel

/-- R131's example. -/
theorem test_crcByte : (nextState (exec (.crcByte 0x1B) { State.reset with crc := 0xFFFF })).map
    State.crc = some 0xA1D5 := by decide +kernel
/-- R132's examples: "123456789", and the empty span. -/
theorem test_crcSpan : retOf (exec (.crcSpan 0 9) (holding .awaitStart
    [0x31, 0x32, 0x33, 0x34, 0x35, 0x36, 0x37, 0x38, 0x39])) = some (.crc 0x906E) := by decide +kernel
theorem test_crcSpan_empty : retOf (exec (.crcSpan 0 0) State.reset) = some (.crc 0) := by decide +kernel
/-- R134's example. -/
theorem test_crcVerify : (nextState (exec .crcVerify (holding .decode frame1))).map
    (fun s => (s.ret, s.crc)) = some (.flag true, 0xDA82 ^^^ 0xFFFF) := by decide +kernel

theorem test_mdFind : retOf (exec (.mdFind 0) (holding .decode frame1)) = some (.offset (some 8)) := by
  decide +kernel
theorem test_mdFind_none : retOf (exec (.mdFind 0) (holding .decode (frame1.take 15))) =
    some (.offset none) := by decide +kernel
/-- R183's example. -/
theorem test_rd : retOf (exec (.rd 32) (holding .decode frame1)) = some (.byte 0xDA) ∧
    retOf (exec (.rd 33) (holding .decode frame1)) = some (.fail .outOfRange) := by decide +kernel
/-- R184's example. -/
theorem test_tlvTag : (nextState (exec .tlvTag (holding .decode [0x53]))).map
    (fun s => (s.tl, s.cur, s.ret)) = some (0x53, 0, .fieldLength 3) := by decide +kernel
/-- R187's example: the payload need not be there. -/
theorem test_tlvSkip : (nextState (exec .tlvSkip (holding .decode [0x65]))).map
    (fun s => (s.cur, s.ret)) = some (5, .done) := by decide +kernel
/-- R190's example. -/
theorem test_tlvU8 : (nextState (exec .tlvU8 (holding .decode [0x62, 0x1E]))).map
    (fun s => (s.cur, s.ret)) = some (2, .byte 30) := by decide +kernel
/-- R191's example: the most negative scaler. -/
theorem test_tlvS8 : (nextState (exec .tlvS8 (holding .decode [0x52, 0x80]))).map
    (fun s => (s.cur, s.ret)) = some (2, .int (-128)) := by decide +kernel
/-- R195's example, and the same bytes under R196. -/
theorem test_tlvVal : retOf (exec .tlvVal (holding .decode [0x56, 0x80, 0, 0, 0, 0])) =
    some (.int (-549755813888)) := by decide +kernel
theorem test_tlvVal_legacy : retOf (exec .tlvVal
    { holding .decode [0x55, 0xFF, 0xFF, 0xFF, 0x9C] with
      cfg := { Config.reference with signExt := false } }) = some (.int 4294967196) := by decide +kernel
/-- R198's example. -/
theorem test_mdDecode : (nextState (exec (.mdDecode 0) (holding .decode frame1))).map State.dec =
    some [some { rawValue := 300, unit := 30, scaler := 0xFF }] := by decide +kernel
/-- A pattern so near the end that its fields do not fit (R242). -/
theorem test_mdDecode_short : outOf (exec (.mdDecode 0) (holding .decode (frame1.take 16))) =
    some [.report 6 (some 0)] := by decide +kernel
theorem test_mdAll : (nextState (exec .mdAll (holding .decode frame1))).map State.dec =
    some [some { rawValue := 300, unit := 30, scaler := 0xFF }] := by decide +kernel

/-- R216's examples, and R217's halfway case away from zero. -/
theorem test_pubScale : retOf (exec (.pubScale 300 0xFF) State.reset) = some (.int 30000) ∧
    retOf (exec (.pubScale 4 0xFC) State.reset) = some (.int 0) := by decide +kernel
theorem test_pubScale_half : retOf (exec (.pubScale (BitVec.ofInt 64 (-5)) 0xFC) State.reset) =
    some (.int (-1)) := by decide +kernel

/-- A state whose one metric has a decoded value. -/
def decoded (rv : Int) (sc : Byte) : State :=
  { State.reset with dec := [some { rawValue := BitVec.ofInt 64 rv, unit := 30, scaler := sc }] }

/-- R219's examples. -/
theorem test_pubWrite : outOf (exec (.pubWrite 0) (decoded (-100) 0)) = some [.slotwr 0 0xFFFE7960] := by
  decide +kernel
/-- R218's example. -/
theorem test_pubWrite_range : outOf (exec (.pubWrite 0) (decoded 2147484 0)) = some [.report 7 (some 0)] := by
  decide +kernel
theorem test_pubAll : outOf (exec .pubAll (decoded 300 0xFF)) = some [.slotwr 0 0x00007530] := by
  decide +kernel

/-- R186's and R185's examples. -/
theorem test_tlvExt : retOf (exec (.tlvExt .value 5 3) (holding .decode [0xD3])) =
    some (.fail .unsupportedFieldLength) := by decide +kernel
theorem test_tlvZero : retOf (exec (.tlvZero .status 5) (holding .decode [0x50])) =
    some (.fail .unsupportedFieldLength) := by decide +kernel
/-- R195's and R194's examples: the same payload under a signed and the unsigned type codes. -/
theorem test_tlvSigned : retOf (exec (.tlvSigned 2) (holding .decode [0x52, 0xFF])) =
    some (.int (-1)) := by decide +kernel
theorem test_tlvUnsigned :
    retOf (exec (.tlvUnsignedT0 2) (holding .decode [0x02, 0xFF])) = some (.int 255) ∧
    retOf (exec (.tlvUnsignedT1 2) (holding .decode [0x12, 0xFF])) = some (.int 255) ∧
    retOf (exec (.tlvUnsignedT2 2) (holding .decode [0x22, 0xFF])) = some (.int 255) ∧
    retOf (exec (.tlvUnsignedT3 2) (holding .decode [0x32, 0xFF])) = some (.int 255) ∧
    retOf (exec (.tlvUnsignedT4 2) (holding .decode [0x42, 0xFF])) = some (.int 255) ∧
    retOf (exec (.tlvUnsignedT6 2) (holding .decode [0x62, 0xFF])) = some (.int 255) ∧
    retOf (exec (.tlvUnsignedT7 2) (holding .decode [0x72, 0xFF])) = some (.int 255) := by
  decide +kernel
/-- R197: bit 63 of an unsigned value. -/
theorem test_tlvUnsigned_wide : retOf (exec (.tlvUnsignedT6 9) (holding .decode
    [0x69, 0xFF, 0xFF, 0xFF, 0xFF, 0xFF, 0xFF, 0xFF, 0xFF])) = some (.int (-1)) := by decide +kernel
theorem test_tlvAny : retOf (exec (.tlvAny .scaler 7 2) (holding .decode [0x72, 0x7F])) =
    some (.int 127) := by decide +kernel

/-- The port runs the word put forward. -/
theorem test_port : (nextState (step (State.reset.withFetchWord 5 0b00010))).map State.port =
    some none := by decide +kernel

/-! ### States and operands that meet the hypotheses of the statements for the provers -/

/-- A state of an event-driven run in AccumulateBody: START has been received. -/
def started : State := holding .accumulateBody startBytes

/-- A state of an event-driven run in ReadTrailer. -/
def trailing : State := { holding .readTrailer (frame1.take 30) with trem := 3 }

/-- The decoded frame with one bit of its checksum's low byte, or of its high byte, flipped. -/
def flipped (k : Nat) (b : Byte) : Memory := Memory.write (holding .decode frame1).buf k b

/-- A pattern and five sound fields that end exactly at the frame's end. -/
def entry1 : State := holding .decode body1

theorem witness_EncodeThenDecodeGivesTheOperation :
    (Instr.selNone .readTrailer).wf = true ∧ (Instr.bufAppend 0xFF 65535).wf = true ∧
    (Instr.crcSpan 65535 65535).wf = true ∧ (Instr.tlvSigned 15).wf = true ∧
    (Instr.tlvAny .scaler 7 15).wf = true := by decide

theorem witness_DecodedWordIsTheEncodingOfItsOperation :
    decode ⟨.uop, [0b00100, 0xFF, 0xFF, 0xFF, 0xFF]⟩ = .instr (.bufSlice 65535 65535) ∧
    decode ⟨.tag8, [0b00000001, 0]⟩ = .instr (.tlvUnsignedT0 1) := by decide

theorem witness_StepRunsTheDecodedOperation :
    State.reset.cfg.wf = true ∧
    { State.reset with port := some ⟨.uop, [0b10011]⟩ }.port = some ⟨.uop, [0b10011]⟩ ∧
    decode ⟨.uop, [0b10011]⟩ = .instr .pubAll := by decide

theorem witness_EventAndFramingStateSelectTheOperation :
    State.reset.cfg.wf = true ∧ State.reset.port = none ∧
    (holding .decode frame1).st = .decode ∧ State.reset.st ≠ .decode ∧ State.reset.pend = [] ∧
    { State.reset with pend := [.reset 5] }.pend = .reset 5 :: [] ∧
    { State.reset with pend := [.tick 5 [1]] }.pend = .tick 5 [1] :: [] ∧
    { State.reset with pend := [.tickSteps 5 [1]] }.pend = .tickSteps 5 [1] :: [] ∧
    State.reset.rest = [] ∧ { started with rest := [1] }.rest = 1 :: [] ∧
    started.st = .accumulateBody ∧
    trailing.st = .readTrailer := by decide +kernel

theorem witness_IllegalConfigurationIsRefused :
    15 < Config.reference.startMarker.length + Config.reference.endMarker.length +
      Config.reference.trailerLen ∧
    { Config.reference with reserve := 2 }.reserve ≠ Config.reference.trailerLen ∧
    (∃ m ∈ [Metric.mk "empty" []], m.pattern = []) := by decide

/-- The largest `now` of `TIMEW` bits. -/
theorem witness_ResetWritesExactlyWhatItsRuleNames :
    4294967295 < 2 ^ State.reset.cfg.timeWidth := by decide

theorem witness_TimeoutFiresOnlyAfterMoreThanTheThreshold :
    (((30000 : Time) : Int) - State.reset.tlast) % 2 ^ 32 ≤ State.reset.cfg.timeoutT ∧
    (State.reset.cfg.timeoutT : Int) < (((30001 : Time) : Int) - State.reset.tlast) % 2 ^ 32 := by
  decide

theorem witness_BufAppendStoresAtTheCursorOrNothing :
    (lengthOnly .awaitStart 3839).Sane ∧ 3840 ≤ Config.reference.capacity ∧
    (lengthOnly .awaitStart 3839).len + 1 ≤ 3840 ∧ 3839 < (lengthOnly .awaitStart 3839).len + 1 := by
  decide +kernel

theorem witness_spans :
    33 ≤ 33 ∧ 33 ≤ (holding .decode frame1).len ∧ 0 ≤ 33 ∧
    (holding .decode frame1).len ≤ (holding .decode frame1).cfg.capacity := by decide +kernel

theorem witness_checksums :
    2 ≤ (lengthOnly .decode 2).len ∧ (lengthOnly .decode 2).len ≤ Config.reference.capacity ∧
    (lengthOnly .decode 3840).len ≤ Config.reference.capacity := by decide

theorem witness_CorruptedChecksumBytesFailVerification :
    (∃ t, exec .crcVerify (holding .decode frame1) = .next t ∧ t.ret = .flag true) ∧
    (∀ k < 31, (flipped 31 0x83).read k = (holding .decode frame1).buf.read k) ∧
    (∀ k < 31, (flipped 32 0xDB).read k = (holding .decode frame1).buf.read k) ∧
    (flipped 31 0x83).read 31 ≠ (holding .decode frame1).buf.read 31 ∧
    (flipped 32 0xDB).read 32 ≠ (holding .decode frame1).buf.read 32 :=
  ⟨⟨_, rfl, by decide +kernel⟩, by decide +kernel⟩

theorem witness_RxAsMatchesOneStartByteOrStartsOver :
    State.reset.Sane ∧ State.reset.st = .awaitStart ∧ State.reset.len < 7 ∧
    State.reset.cfg.startMarker[0]? = some 0x1B ∧
    (holding .awaitStart (startBytes.take 7)).Sane ∧
    (holding .awaitStart (startBytes.take 7)).len = 7 ∧
    State.reset.cfg.startMarker[7]? = some 0x01 ∧
    State.reset.cfg.startMarker[7]? ≠ some 0x1B := by decide +kernel

theorem witness_RxAbOverflowsOrAppendsAndTestsEnd :
    (lengthOnly .accumulateBody 3837).Sane ∧
    Config.reference.capacity - Config.reference.reserve < (lengthOnly .accumulateBody 3837).len + 1 ∧
    (lengthOnly .accumulateBody 3836).Sane ∧
    (lengthOnly .accumulateBody 3836).len + 1 ≤ Config.reference.capacity - Config.reference.reserve ∧
    started.Sane ∧ 8 ≤ started.len ∧
    (holding .accumulateBody (frame1.take 29)).Sane ∧
    (holding .readTrailer (frame1.take 30)).bufSlice 25 30 = Config.reference.endMarker := by
  decide +kernel

theorem witness_RxRtStoresAndCountsDown :
    trailing.Sane ∧ trailing.st = .readTrailer ∧ trailing.trem ≠ 0 ∧ trailing.trem ≠ 1 ∧
    trailing.len + trailing.trem.toNat ≤ trailing.cfg.capacity ∧
    { lengthOnly .readTrailer 3839 with trem := 1 }.Sane ∧
    { lengthOnly .readTrailer 3839 with trem := 1 }.len +
      ({ lengthOnly .readTrailer 3839 with trem := 1 }).trem.toNat ≤ Config.reference.capacity := by
  decide +kernel

theorem witness_OperationsStopOutsideTheirConditions :
    State.reset.cfg.capacity < 3841 ∧ 2 < 3 ∧ State.reset.len < 1 ∧
    State.reset.cfg.metricCount ≤ 1 ∧ started.st ≠ .awaitStart ∧ State.reset.st ≠ .accumulateBody ∧
    State.reset.st ≠ .readTrailer ∧ State.reset.st ≠ .decode ∧ (lengthOnly .decode 1).len < 2 ∧
    (lengthOnly .decode 1).st = .decode ∧ State.reset.cfg.capacity < (lengthOnly .decode 3841).len ∧
    State.reset.cfg.capacity ≤ (lengthOnly .awaitStart 3840).len ∧
    0 < State.reset.cfg.metricCount ∧ 3841 ≤ (lengthOnly .decode 3841).len := by decide

theorem witness_StartRightAfterPartialStartIsMissed :
    (holding .awaitStart (startBytes.take 1)).Sane ∧ (holding .awaitStart (startBytes.take 7)).Sane ∧
    Config.reference.Given ∧ 1 ≤ (holding .awaitStart (startBytes.take 1)).len ∧
    (holding .awaitStart (startBytes.take 7)).len ≤ 7 := by decide +kernel

theorem witness_DecodeDiscardsFrameOnChecksumMismatch :
    (holding .decode [0x31, 0x00, 0x01]).st = .decode ∧ 2 ≤ (holding .decode [0x31, 0x00, 0x01]).len ∧
    (crcParam ((holding .decode [0x31, 0x00, 0x01]).bufSlice 0 1)).toNat ≠ 0x00 + 256 * 0x01 := by
  decide +kernel

theorem witness_DecodeOfValidFrameIsDecodePublishEnter :
    (holding .decode frame1).st = .decode ∧ 2 ≤ (holding .decode frame1).len ∧
    (holding .decode frame1).len ≤ (holding .decode frame1).cfg.capacity ∧
    (crcParam ((holding .decode frame1).bufSlice 0 31)).toNat =
      ((holding .decode frame1).buf.read 31).toNat +
        256 * ((holding .decode frame1).buf.read 32).toNat := by decide +kernel

theorem witness_DecodeAlwaysEndsInAwaitStart :
    ∃ t, exec .decode (lengthOnly .decode 2) = .next t := ⟨_, rfl⟩

theorem witness_metric :
    State.reset.cfg.metrics[0]? = some ⟨"m0", referencePattern⟩ ∧ 0 < State.reset.cfg.metricCount ∧
    entry1.len ≤ entry1.cfg.capacity ∧ entry1.FirstAt referencePattern 0 ∧
    (holding .decode startBytes).Nowhere referencePattern := by decide +kernel

/-- The pattern with its first field's tag byte beyond the frame, and with a fourth field of length 0. -/
theorem witness_MdDecodeReportsAtMostOnceAndThenIsAbsent :
    (holding .decode (body1.take 8)).FirstAt referencePattern 0 ∧
    (holding .decode (body1.take 8)).firstFailure entryFields 8 = some 6 ∧
    (holding .decode (body1.take 12 ++ [0x50])).FirstAt referencePattern 0 ∧
    (holding .decode (body1.take 12 ++ [0x50])).firstFailure entryFields 8 = some 3 ∧
    (holding .decode (body1.take 16)).firstFailure entryFields 8 = some 6 ∧
    entry1.firstFailure entryFields 8 = none := by decide +kernel

theorem witness_MdAllDecodesEveryMetricInOrder :
    (holding .decode frame1).len ≤ (holding .decode frame1).cfg.capacity ∧
    0 < (holding .decode frame1).cfg.metricCount := by decide +kernel

theorem witness_PubAllPublishesEveryMetricInOrder :
    0 < (decoded 300 0xFF).cfg.metricCount := by decide

theorem witness_RdReadsBelowTheLengthOnly :
    (holding .decode frame1).len ≤ (holding .decode frame1).cfg.capacity ∧
    32 < (holding .decode frame1).len ∧ (holding .decode frame1).len ≤ 33 := by decide +kernel

theorem witness_TlvTagChecksBoundsThenXThenL :
    State.reset.len ≤ State.reset.cur ∧ (holding .decode [0xD0]).cur < (holding .decode [0xD0]).len ∧
    tagX ((holding .decode [0xD0]).buf.read 0) = true ∧
    tagX ((holding .decode [0x50]).buf.read 0) = false ∧
    tagL ((holding .decode [0x50]).buf.read 0) = 0 ∧ (holding .decode [0x51]).GoodTag 0 := by
  decide +kernel

theorem witness_field_operations :
    (holding .decode [0x62, 0x1E]).GoodTag 0 ∧
    (holding .decode [0x62, 0x1E]).cur + 1 < (holding .decode [0x62, 0x1E]).len ∧
    State.reset.len ≤ State.reset.cur ∧ (holding .decode [0x83]).cur < (holding .decode [0x83]).len ∧
    tagX ((holding .decode [0x83]).buf.read 0) = true ∧ tagL ((holding .decode [0x50]).buf.read 0) = 0 ∧
    (holding .decode [0x62]).GoodTag 0 ∧
    (holding .decode [0x62]).len ≤ (holding .decode [0x62]).cur + 1 ∧
    Instr.tlvU8 ∈ [Instr.tlvU8, .tlvS8] := by decide +kernel

theorem witness_TlvValTakesTheBigEndianPayload :
    (holding .decode [0x53, 0x01, 0x2C]).GoodTag 0 ∧
    (holding .decode [0x53, 0x01, 0x2C]).nextField 0 = (holding .decode [0x53, 0x01, 0x2C]).len ∧
    (holding .decode [0x53, 0x01]).GoodTag 0 ∧
    (holding .decode [0x53, 0x01]).len < (holding .decode [0x53, 0x01]).nextField 0 := by
  decide +kernel

theorem witness_MdDecodeReadsTheFiveFieldsAfterThePattern :
    entry1.cfg.metrics[0]? = some ⟨"m0", referencePattern⟩ ∧ entry1.len ≤ entry1.cfg.capacity ∧
    entry1.FirstAt referencePattern 0 ∧ 8 = 0 + referencePattern.length ∧ 9 = entry1.nextField 8 ∧
    10 = entry1.nextField 9 ∧ 12 = entry1.nextField 10 ∧ 14 = entry1.nextField 12 ∧
    entry1.GoodTag 8 ∧ entry1.GoodTag 9 ∧ entry1.GoodTag 10 ∧ entry1.GoodTag 12 ∧
    entry1.GoodTag 14 ∧ 10 + 1 < entry1.len ∧ 12 + 1 < entry1.len ∧
    entry1.nextField 14 = entry1.len := by decide +kernel

theorem witness_PubScaleIsExactOrNearestHalvesAwayFromZero :
    0 = (BitVec.ofInt 8 (-3)).toInt + 3 ∧ (BitVec.ofInt 8 (-4)).toInt + 3 = -1 := by decide

theorem witness_ScaledValueLeavesTheSlotRangeOrVanishesForLargeExponents :
    (1 : AccWord) ≠ 0 ∧ (7 : Byte).toInt + 3 = 10 ∧ (BitVec.ofInt 8 (-23)).toInt + 3 = -20 := by
  decide

theorem witness_PubWriteTestsAbsenceThenSlotThenRange :
    0 < State.reset.cfg.metricCount ∧ State.reset.present 0 = false ∧
    (decoded 1 0).dec[0]? = some (some { rawValue := 1, unit := 30, scaler := 0 }) ∧
    0 < (decoded 1 0).cfg.slotCount ∧ { Config.reference with slotCount := 0 }.slotCount ≤ 0 ∧
    pubScale (2 ^ 31) (-3) = 2 ^ 31 ∧ pubScale (2 ^ 31 - 1) (-3) = 2 ^ 31 - 1 ∧
    pubScale (-2 ^ 31) (-3) = -2 ^ 31 ∧ pubScale (-2 ^ 31 - 1) (-3) = -2 ^ 31 - 1 := by
  decide +kernel

theorem witness_TagRowAtTheCursorIsTheFieldOperation :
    (holding .decode [0x62]).len ≤ (holding .decode [0x62]).cfg.capacity ∧
    (holding .decode [0x62]).cur < (holding .decode [0x62]).len := by decide +kernel

theorem witness_ValueRowsTakeTheirPayload :
    (Instr.tlvUnsignedT6 3, (6 : BitVec 3)) ∈ [(Instr.tlvSigned 3, 5), (.tlvUnsignedT6 3, 6)] ∧
    (3 : BitVec 4) ≠ 0 ∧
    (holding .decode [0x63, 1, 2]).cur + (3 : BitVec 4).toNat = (holding .decode [0x63, 1, 2]).len ∧
    (holding .decode [0x63, 1]).cur < (holding .decode [0x63, 1]).len ∧
    (holding .decode [0x63, 1]).len < (holding .decode [0x63, 1]).cur + (3 : BitVec 4).toNat := by
  decide +kernel

theorem witness_AnyTagSkipsOrTakesTheByteAfterTheTag :
    (1 : BitVec 4) ≠ 0 ∧ (holding .decode [0x62, 1]).cur + 1 < (holding .decode [0x62, 1]).len ∧
    (holding .decode [0x62]).len ≤ (holding .decode [0x62]).cur + 1 ∧
    Field.scaler ∈ [Field.unit, .scaler] := by decide +kernel

theorem witness_StartMarkerEntersAccumulateBody :
    State.reset.Sane ∧ State.reset.st = .awaitStart ∧ State.reset.len = 0 := by decide

theorem witness_EndMarkerEntersReadTrailer :
    started.Sane ∧ started.cfg.Given ∧ started.st = .accumulateBody ∧ 8 ≤ started.len ∧
    (lengthOnly .accumulateBody 3832).Sane ∧
    (lengthOnly .accumulateBody 3832).len + 5 = Config.reference.capacity - Config.reference.reserve := by
  decide +kernel

theorem witness_TrailerCompletesTheFrameAndDecodes :
    trailing.Sane ∧ trailing.st = .readTrailer ∧ trailing.trem = 3 ∧
    trailing.len + 3 ≤ trailing.cfg.capacity ∧
    { lengthOnly .readTrailer 3837 with trem := 3 }.len + 3 = Config.reference.capacity := by
  decide +kernel

theorem witness_EveryStepKeepsTheStateSane :
    State.reset.Sane ∧ ∃ t, step State.reset = .next t := ⟨by decide, _, rfl⟩

theorem witness_event_driven :
    State.reset.EventDriven ∧ started.EventDriven ∧ trailing.EventDriven ∧
    (holding .decode frame1).EventDriven :=
  ⟨by decide +kernel, by decide +kernel, by decide +kernel, by decide +kernel⟩

theorem witness_EventDrivenStepKeepsTheFramingInvariant :
    ∃ t, step { trailing with rest := [0] } = .next t := ⟨_, rfl⟩

theorem witness_TickEqualsItsFineGrainedSteps :
    trailing.EventDriven ∧ trailing.st ≠ .decode ∧
    trailing.rest = [] ∧ elapsedOf 32 30000 trailing.tlast ≤ trailing.cfg.timeoutT :=
  ⟨by decide +kernel, by decide, rfl, by decide⟩

theorem witness_WellFormedFrameIsDecodedOnceOnItsOwnBytes :
    State.reset.Sane ∧ State.reset.st = .awaitStart ∧ State.reset.len = 0 ∧
    elapsedOf 32 30000 State.reset.tlast ≤ State.reset.cfg.timeoutT ∧
    EndOnlyAtEnd Config.reference body1 ∧ EndOnlyAtEnd Config.reference [] ∧
    trailer1.length = Config.reference.trailerLen ∧
    (frameHead Config.reference body1 ++ trailer1).length ≤ Config.reference.capacity := by
  decide +kernel

/-- A state that differs from `trailing` in unspecified elements only. -/
def stale : State :=
  { trailing with
    crc := 7, cur := 9, acc := 3, tl := 1, slots := [1, 2, 3, 4], out := [.report 5 none],
    buf := Memory.write trailing.buf 40 0xAA }

theorem witness_UnspecifiedElementsNeverAffectAStep :
    trailing.Sane ∧ trailing.port = none ∧ stale.Sane ∧ trailing ≠ stale ∧ trailing.Alike stale ∧
    started.Alike { started with trem := 2 } := by decide +kernel

theorem witness_UnspecifiedElementsNeverAffectAStep_runs :
    ∃ t, step { trailing with rest := [0] } = .next t := ⟨_, rfl⟩

theorem witness_SameFrameTwiceEmitsTheSameEventsTwice :
    State.reset.Sane ∧ elapsedOf 32 1000 State.reset.tlast ≤ State.reset.cfg.timeoutT ∧
    elapsedOf 32 31000 1000 ≤ State.reset.cfg.timeoutT ∧
    EndOnlyAtEnd Config.reference body1 := by decide +kernel

theorem witness_ConfigurationNeverChanges :
    ∃ t, exec .pubAll (decoded 300 0xFF) = .next t := ⟨_, rfl⟩

end Sys2Proof.Tests
end

section
/-! PROOFS. The frame buffer operations (spec/40_frame_buffer.md): what each one leaves, case by case,
and the statements that follow. -/

namespace Sys2Proof.Proofs.FrameBuffer

open Sys2Proof Sys2Proof.Machine

/-! ### The dispatch of the three operations -/

theorem exec_bufReset (s : State) : exec .bufReset s = execBufReset s := rfl

theorem exec_bufAppend (b : Byte) (limit : Nat) (s : State) :
    exec (.bufAppend b limit) s = execBufAppend b limit s := rfl

theorem exec_bufSlice (lo hi : Nat) (s : State) :
    exec (.bufSlice lo hi) s = execBufSlice lo hi s := rfl

/-! ### BUF.APPEND by its two results (R117) -/

/-- At the limit only the result latch changes. -/
theorem execBufAppend_overflow {s : State} {b : Byte} {limit : Nat}
    (hcap : limit ≤ s.cfg.capacity) (hfull : limit < s.len + 1) :
    execBufAppend b limit s = .next { s with ret := .overflow } := by
  rw [execBufAppend_eq s hcap, s.bufAppend_overflow hfull]
  rfl

/-- Below the limit the byte goes to address `len`, which moves on by one. -/
theorem execBufAppend_ok {s : State} {b : Byte} {limit : Nat}
    (hcap : limit ≤ s.cfg.capacity) (hroom : s.len + 1 ≤ limit) :
    execBufAppend b limit s =
      .next { s with buf := s.buf.write s.len b, len := s.len + 1, ret := .done } := by
  rw [execBufAppend_eq s hcap, s.bufAppend_ok hroom]
  rfl

/-! ### The statements -/

/-- Settles O12: one equation per result; the store reads back because a sane state's BUF is in its
canonical form (`Memory.read_write`). -/
theorem bufAppendStoresAtTheCursorOrNothing : Obligations.BufAppendStoresAtTheCursorOrNothing := by
  intro s b limit ⟨_, hbuf, _⟩ hcap
  rw [exec_bufAppend]
  exact ⟨fun hfull => execBufAppend_overflow hcap hfull,
    fun hroom => ⟨_, execBufAppend_ok hcap hroom, rfl,
      fun k => Memory.read_write hbuf s.len k b⟩⟩

/-- Settles O11: BUF.RESET is the one update `len <- 0` (R116). -/
theorem bufResetClearsTheCursorOnly : Obligations.BufResetClearsTheCursorOnly := by
  intro s
  rw [exec_bufReset, execBufReset, State.bufReset]

/-- Settles O13: within `[0, len]` and below `C` BUF.SLICE latches the slice, whose length and bytes
`State.bufSlice_length` and `State.bufSlice_getElem?` give. -/
theorem bufSliceReadsTheSpan : Obligations.BufSliceReadsTheSpan := by
  intro s lo hi hspan hlen hcap
  refine ⟨s.bufSlice lo hi, ?_, s.bufSlice_length lo hi, fun k hk => s.bufSlice_getElem? hk⟩
  rw [exec_bufSlice, execBufSlice_eq s hspan hlen hcap, State.latch]

end Sys2Proof.Proofs.FrameBuffer
end

section
/-! PROOFS. The framing state machine one operation at a time (spec/42_framing_fsm.md): ENTER.AS, the
timeout check, and one input byte in each framing state. -/

namespace Sys2Proof.Proofs.Framing

open Sys2Proof Sys2Proof.Machine

/-! ### The dispatch of the operations -/

theorem exec_enterAs (s : State) : exec .enterAs s = .next s.enterAs := rfl

theorem exec_tmoChk (s : State) : exec .tmoChk s = .next s.tmoChk := rfl

theorem exec_rxDe (b : Byte) (s : State) : exec (.rxDe b) s = execRxDe b s := rfl

theorem exec_rxAs_of_awaitStart {s : State} (h : s.st = .awaitStart) (b : Byte) :
    exec (.rxAs b) s = s.rxAs b := s.inState_eq h _

theorem exec_rxAb_of_accumulateBody {s : State} (h : s.st = .accumulateBody) (b : Byte) :
    exec (.rxAb b) s = .next (s.rxAb b) := s.inState_eq h _

theorem exec_rxRt_of_readTrailer {s : State} (h : s.st = .readTrailer) (b : Byte) :
    exec (.rxRt b) s = .next (s.rxRt b) := s.inState_eq h _

/-! ### What the operations share -/

/-- ENTER.AS writes three elements and leaves the rest (R147). -/
theorem enterAs_eq (s : State) :
    s.enterAs = { s with st := .awaitStart, len := 0, tlast := s.tnow } := rfl

/-- An error of the framing machine reports its code without an index and enters AwaitStart (R238). -/
theorem report_enterAs_eq (s : State) (k : ErrKind) :
    (s.report k none).enterAs =
      { s with
        st := .awaitStart, len := 0, tlast := s.tnow, out := s.out ++ [.report k.code none] } := rfl

/-- The elapsed time as an integer: the remainder is not negative (R149). -/
theorem coe_elapsedOf (w : Nat) (now last : Time) :
    (elapsedOf w now last : Int) = ((now : Int) - last) % 2 ^ w :=
  Int.toNat_of_nonneg (Int.emod_nonneg _ (pow_ne_zero w two_ne_zero))

/-- A write to a BUF in its canonical form stores one byte. -/
theorem storedByte_write {m : Memory} (h : Memory.wf m = true) (a : Nat) (b : Byte) :
    StoredByte m (m.write a b) a b := fun k => Memory.read_write h a k b

/-- START has eight bytes, and BUF has room for them (R7). -/
theorem startMarker_fits {c : Config} (h : c.wf = true) :
    c.startMarker.length = 8 ∧ 8 ≤ c.capacity := by
  obtain ⟨hcap, -, -, hstart, -⟩ := c.wf_iff.1 h
  exact ⟨hstart, by omega⟩

/-- END has five bytes (R7). -/
theorem endMarker_length {c : Config} (h : c.wf = true) : c.endMarker.length = 5 := by
  obtain ⟨-, -, -, -, hend, -⟩ := c.wf_iff.1 h
  exact hend

/-- After a store at `len`, from 8 on, the END test compares the last five bytes (R153, R155). -/
theorem stored_endMatched_iff {s : State} (hwf : s.cfg.wf = true) (hlen : 8 ≤ s.len) (b : Byte) :
    (s.stored b).endMatched = true ↔
      (s.stored b).bufSlice (s.len + 1 - 5) (s.len + 1) = s.cfg.endMarker := by
  have hend : (s.stored b).cfg.endMarker.length = 5 := endMarker_length hwf
  rw [State.endMatched_iff, hend]
  have hroom : 5 ≤ (s.stored b).len := by simp only [State.stored]; omega
  exact and_iff_right hroom

/-! ### The statements -/

/-- Settles O20: overflow comes before the store; otherwise the state that the END test reads is the
one after the store, in both of the test's outcomes. -/
theorem rxAbOverflowsOrAppendsAndTestsEnd : Obligations.RxAbOverflowsOrAppendsAndTestsEnd := by
  intro s b ⟨hwf, hbuf, _⟩ hst hlen
  have hstore : StoredByte s.buf (s.stored b).buf s.len b := storedByte_write hbuf s.len b
  have hend := stored_endMatched_iff hwf hlen b
  rw [exec_rxAb_of_accumulateBody hst]
  constructor
  · intro hfull
    rw [s.rxAb_overflow hfull, s.raise_bufferOverflow, report_enterAs_eq, ErrKind.code]
  · intro hroom
    by_cases hmatch : (s.stored b).endMatched = true
    · rw [s.rxAb_end hroom hmatch]
      exact ⟨_, rfl, hstore, fun _ => rfl, fun hne => absurd (hend.1 hmatch) hne⟩
    · rw [s.rxAb_body hroom hmatch]
      exact ⟨_, rfl, hstore, fun heq => absurd (hend.2 heq) hmatch, fun _ => rfl⟩

/-- Settles O19: one equation per result of the comparison with START; the eighth match is the one at
`len` 7 because START has eight bytes. -/
theorem rxAsMatchesOneStartByteOrStartsOver : Obligations.RxAsMatchesOneStartByteOrStartsOver := by
  intro s b ⟨hwf, hbuf, _⟩ hst hlen
  obtain ⟨hstart, hcap⟩ := startMarker_fits hwf
  have hroom : s.len < s.cfg.capacity := by omega
  have hstore := storedByte_write hbuf s.len b
  rw [exec_rxAs_of_awaitStart hst]
  by_cases hb : s.cfg.startMarker[s.len]? = some b
  · by_cases h7 : s.len = 7
    · rw [s.rxAs_last hroom hb (by omega)]
      exact ⟨_, rfl, hstore, fun _ hlt => by omega, fun _ _ => by rw [h7], fun hne => absurd hb hne⟩
    · rw [s.rxAs_match hroom hb (by omega)]
      exact ⟨_, rfl, hstore, fun _ _ => rfl, fun _ heq => absurd heq h7, fun hne => absurd hb hne⟩
  · rw [s.rxAs_miss hroom hb]
    exact ⟨_, rfl, hstore, fun heq => absurd heq hb, fun heq => absurd heq hb, fun _ => rfl⟩

/-- Settles O21: with trailer bytes outstanding there is room for this one, so it is stored in both
cases; the last one is the one at `trem` 1. -/
theorem rxRtStoresAndCountsDown : Obligations.RxRtStoresAndCountsDown := by
  intro s b ⟨_, hbuf, _⟩ hst htrem hcap
  have hpos : s.trem.toNat ≠ 0 := BitVec.toNat_ne.1 htrem
  have hroom : s.len + 1 ≤ s.cfg.capacity := by omega
  have hstore : StoredByte s.buf (s.stored b).buf s.len b := storedByte_write hbuf s.len b
  rw [exec_rxRt_of_readTrailer hst]
  by_cases h1 : s.trem = 1
  · rw [s.rxRt_last hroom h1]
    exact ⟨_, rfl, hstore, fun _ => rfl, fun hne => absurd h1 hne⟩
  · rw [s.rxRt_more hroom h1]
    exact ⟨_, rfl, hstore, fun heq => absurd heq h1, fun _ => rfl⟩

/-- Settles O9: ENTER.AS is its three writes (R147). -/
theorem enterAsWritesStateLengthAndTime : Obligations.EnterAsWritesStateLengthAndTime := by
  intro s
  rw [exec_enterAs, enterAs_eq]

/-- Settles O10: the check compares the elapsed time as a natural number, which `coe_elapsedOf` ties to
the statement's remainder. -/
theorem timeoutFiresOnlyAfterMoreThanTheThreshold :
    Obligations.TimeoutFiresOnlyAfterMoreThanTheThreshold := by
  intro s
  rw [exec_tmoChk, ← coe_elapsedOf]
  constructor
  · intro hle
    rw [s.tmoChk_quiet (Int.ofNat_le.1 hle)]
  · intro hlt
    rw [s.tmoChk_fires (Int.ofNat_lt.1 hlt), s.raise_timeout, report_enterAs_eq, ErrKind.code]

/-- Settles O23: RX.DE is refused before it looks at the state (R157). -/
theorem rxDeIsRefused : Obligations.RxDeIsRefused := by
  intro s b
  rw [exec_rxDe, execRxDe]

end Sys2Proof.Proofs.Framing
end

section
/-! PROOFS. The metric decoder (spec/43_metric_decoder.md): what its operations issued on their own
answer, and MD.ALL, in which a metric's result depends on the frame alone. -/

namespace Sys2Proof.Proofs.MetricDecoder

open Sys2Proof Sys2Proof.Machine

/-! ### The dispatch of the operations -/

theorem exec_mdFind (i : Nat) (s : State) : exec (.mdFind i) s = execMdFind i s := rfl

theorem exec_rd (k : Nat) (s : State) : exec (.rd k) s = execRd k s := rfl

theorem exec_tlvTag (s : State) : exec .tlvTag s = execTlvTag s := rfl

theorem exec_mdDecode (i : Nat) (s : State) : exec (.mdDecode i) s = execMdDecode i s := rfl

theorem exec_mdAll (s : State) : exec .mdAll s = execMdAll s := rfl

/-! ### MD.FIND, RD and TLV.TAG by their results -/

/-- An entry of the metric table has an index. -/
theorem index_lt_metricCount {c : Config} {i : Nat} {m : Metric} (h : c.metrics[i]? = some m) :
    i < c.metricCount := (List.getElem?_eq_some_iff.1 h).1

/-- The search answers the first offset of the pattern (R181). -/
theorem firstAt_of_findPattern {s : State} {pat : List Byte} {o : Nat}
    (h : s.findPattern pat = some o) : s.FirstAt pat o := by
  obtain ⟨hat, hlt, hfirst⟩ := s.findPattern_some.1 h
  exact ⟨by omega, hat, hfirst⟩

theorem execRd_in {s : State} {k : Nat} (hcap : s.len ≤ s.cfg.capacity) (hk : k < s.len) :
    execRd k s = .next { s with ret := .byte (s.buf.read k) } := by
  rw [execRd, s.readingBuf_next hcap, s.rd_ok hk, latchRes, State.latch]

theorem execRd_out {s : State} {k : Nat} (hcap : s.len ≤ s.cfg.capacity) (hk : s.len ≤ k) :
    execRd k s = .next { s with ret := .fail .outOfRange } := by
  rw [execRd, s.readingBuf_next hcap, s.rd_fail hk, latchRes, State.latch]

theorem execTlvTag_out {s : State} (hcap : s.len ≤ s.cfg.capacity) (hcur : s.len ≤ s.cur) :
    execTlvTag s = .next { s with ret := .fail .outOfRange } := by
  rw [execTlvTag, s.readingBuf_next hcap, atCursor_out s _ hcur, latchRes, State.latch]

theorem execTlvTag_bad {s : State} (hcap : s.len ≤ s.cfg.capacity) (hcur : s.cur < s.len)
    (hbad : tagX (s.buf.read s.cur) = true ∨ tagL (s.buf.read s.cur) = 0) :
    execTlvTag s =
      .next { s with tl := s.buf.read s.cur, ret := .fail .unsupportedFieldLength } := by
  rw [execTlvTag, s.readingBuf_next hcap, atCursor_in s _ hcur, checkTag_bad s hbad, latchRes,
    State.latch]

theorem execTlvTag_good {s : State} (hcap : s.len ≤ s.cfg.capacity) (hgood : s.GoodTag s.cur) :
    execTlvTag s = .next
      { s with
        tl := s.buf.read s.cur, ret := .fieldLength (tagL (s.buf.read s.cur)).toNat } := by
  obtain ⟨hcur, hx, hl⟩ := hgood
  rw [execTlvTag, s.readingBuf_next hcap, atCursor_in s _ hcur, checkTag_good s hx hl, latchRes,
    State.latch]

/-! ### What the decoder reads

Its operations read the configuration and the bytes below `len`, from the cursor on; the accumulation
loop reads `acc` too, which TLV.VAL has cleared (R192). -/

/-- The two states hold the same frame, under the same configuration. -/
def SameFrame (s t : State) : Prop :=
  s.cfg = t.cfg ∧ s.len = t.len ∧ ∀ k < s.len, s.buf.read k = t.buf.read k

/-- The same frame, read from the same cursor. -/
def SameCursor (s t : State) : Prop := SameFrame s t ∧ s.cur = t.cur

/-- The same frame, cursor and accumulated value. -/
def SameAcc (s t : State) : Prop := SameCursor s t ∧ s.acc = t.acc

/-- Two runs of an operation return the same and leave related states. -/
def Agree {α : Type} (R : State → State → Prop) (r r' : Res α × State) : Prop :=
  r.1 = r'.1 ∧ R r.2 r'.2

theorem SameFrame.cfg_eq {s t : State} (h : SameFrame s t) : s.cfg = t.cfg := h.1

theorem SameFrame.len_eq {s t : State} (h : SameFrame s t) : s.len = t.len := h.2.1

theorem SameFrame.refl (s : State) : SameFrame s s := ⟨rfl, rfl, fun _ _ => rfl⟩

theorem SameFrame.trans {s t u : State} (h : SameFrame s t) (h' : SameFrame t u) :
    SameFrame s u := by
  obtain ⟨hcfg, hlen, hread⟩ := h
  obtain ⟨hcfg', hlen', hread'⟩ := h'
  exact ⟨hcfg.trans hcfg', hlen.trans hlen',
    fun k hk => (hread k hk).trans (hread' k (hlen ▸ hk))⟩

theorem SameFrame.rd_eq {s t : State} (h : SameFrame s t) (k : Nat) : s.rd k = t.rd k := by
  obtain ⟨-, hlen, hread⟩ := h
  by_cases hk : k < s.len
  · rw [s.rd_ok hk, t.rd_ok (hlen ▸ hk), hread k hk]
  · rw [s.rd_fail (by omega), t.rd_fail (by omega)]

theorem SameFrame.bufSlice_eq {s t : State} (h : SameFrame s t) {lo hi : Nat} (hhi : hi ≤ s.len) :
    s.bufSlice lo hi = t.bufSlice lo hi := by
  obtain ⟨-, -, hread⟩ := h
  exact State.bufSlice_congr fun k _ hk => hread k (by omega)

theorem SameFrame.pattern_eq {s t : State} (h : SameFrame s t) (i : Nat) :
    s.pattern i = t.pattern i := by
  rw [State.pattern, State.pattern, h.cfg_eq]

/-- The offsets tried keep the pattern below `len`. -/
theorem SameFrame.findPattern_eq {s t : State} (h : SameFrame s t) (pat : List Byte) :
    s.findPattern pat = t.findPattern pat := by
  have hlen := h.len_eq
  have hslice : ∀ p < s.len + 1 - pat.length,
      s.bufSlice p (p + pat.length) = t.bufSlice p (p + pat.length) :=
    fun p hp => h.bufSlice_eq (by omega)
  cases hs : s.findPattern pat with
  | none =>
    refine (t.findPattern_none.2 fun p hp => ?_).symm
    rw [← hslice p (by omega)]
    exact s.findPattern_none.1 hs p (by omega)
  | some o =>
    obtain ⟨hat, hlt, hfirst⟩ := s.findPattern_some.1 hs
    refine (t.findPattern_some.2 ⟨hslice o hlt ▸ hat, by omega, fun p hp => ?_⟩).symm
    rw [← hslice p (by omega)]
    exact hfirst p hp

theorem SameCursor.rd_eq {s t : State} (h : SameCursor s t) (k : Nat) :
    s.rd (s.cur + k) = t.rd (t.cur + k) := by
  obtain ⟨hframe, hcur⟩ := h
  rw [← hcur, hframe.rd_eq]

/-- Moving both cursors by the same length. -/
theorem SameCursor.advance {s t : State} (h : SameCursor s t) (l : Nat) :
    SameCursor { s with cur := s.cur + l } { t with cur := t.cur + l } :=
  ⟨h.1, congrArg (· + l) h.2⟩

/-- Sequencing keeps the agreement (R180). -/
theorem onOk_agree {α β : Type} {R R' : State → State → Prop} {r r' : Res α × State}
    {f : α → State → Res β × State} (h : Agree R r r')
    (hfail : ∀ t t', R t t' → R' t t')
    (hf : ∀ a t t', R t t' → Agree R' (f a t) (f a t')) : Agree R' (onOk r f) (onOk r' f) := by
  obtain ⟨x, t⟩ := r
  obtain ⟨x', t'⟩ := r'
  obtain ⟨rfl, hR⟩ := h
  cases x with
  | ok a => exact hf a t t' hR
  | fail k => exact ⟨rfl, hfail t t' hR⟩

/-- Sequencing between operations that read from the same cursor. -/
theorem Agree.thenCursor {α β : Type} {r r' : Res α × State} {f : α → State → Res β × State}
    (h : Agree SameCursor r r')
    (hf : ∀ a t t', SameCursor t t' → Agree SameCursor (f a t) (f a t')) :
    Agree SameCursor (onOk r f) (onOk r' f) := onOk_agree h (fun _ _ hR => hR) hf

theorem checkTag_agree (tag : Byte) {s t : State} (h : SameCursor s t) :
    Agree SameCursor (checkTag tag s) (checkTag tag t) := by
  by_cases hbad : tagX tag = true ∨ tagL tag = 0
  · rw [checkTag_bad s hbad, checkTag_bad t hbad]
    exact ⟨rfl, h⟩
  · obtain ⟨hx, hl⟩ := not_or.1 hbad
    rw [checkTag_good s (Bool.eq_false_of_not_eq_true hx) hl,
      checkTag_good t (Bool.eq_false_of_not_eq_true hx) hl]
    exact ⟨rfl, h⟩

theorem atCursor_agree {α : Type} {f : Byte → State → Res α × State}
    (hf : ∀ tag s t, SameCursor s t → Agree SameCursor (f tag s) (f tag t)) {s t : State}
    (h : SameCursor s t) : Agree SameCursor (atCursor f s) (atCursor f t) := by
  have hrd : s.rd s.cur = t.rd t.cur := h.rd_eq 0
  rw [atCursor, atCursor, ← hrd]
  cases s.rd s.cur with
  | ok tag => exact hf tag s t h
  | fail k => exact ⟨rfl, h⟩

theorem skipField_agree (tag : Byte) (s t : State) (h : SameCursor s t) :
    Agree SameCursor (skipField tag s) (skipField tag t) :=
  (checkTag_agree tag h).thenCursor fun l _ _ h => ⟨rfl, h.advance l⟩

theorem byteField_agree (tag : Byte) (s t : State) (h : SameCursor s t) :
    Agree SameCursor (byteField tag s) (byteField tag t) :=
  (checkTag_agree tag h).thenCursor fun l s t h => by
    rw [← h.rd_eq 1]
    cases s.rd (s.cur + 1) with
    | ok b => exact ⟨rfl, h.advance l⟩
    | fail k => exact ⟨rfl, h⟩

theorem accLoop_agree (n k : Nat) {s t : State} (h : SameAcc s t) :
    Agree SameAcc (accLoop n k s) (accLoop n k t) := by
  induction n generalizing k s t with
  | zero => exact ⟨rfl, h⟩
  | succ n ih =>
    obtain ⟨hcursor, hacc⟩ := h
    rw [accLoop, accLoop, ← hcursor.rd_eq k]
    cases s.rd (s.cur + k) with
    | ok b => exact ih (k + 1) ⟨hcursor, congrArg (accPush · b) hacc⟩
    | fail e => exact ⟨rfl, hcursor, hacc⟩

theorem valueField_agree (tag : Byte) (s t : State) (h : SameCursor s t) :
    Agree SameCursor (valueField tag s) (valueField tag t) :=
  (checkTag_agree tag h).thenCursor fun l s t h =>
    have hloop : SameAcc { s with cur := s.cur + 1, acc := 0 }
        { t with cur := t.cur + 1, acc := 0 } := ⟨h.advance 1, rfl⟩
    onOk_agree (accLoop_agree (l - 1) 0 hloop) (fun _ _ h => h.1) fun _ s t h => by
      obtain ⟨⟨hframe, hcur⟩, hacc⟩ := h
      rw [hacc, hframe.cfg_eq]
      exact ⟨rfl, hframe, hcur⟩

theorem fiveFields_agree {s t : State} (h : SameCursor s t) :
    Agree SameCursor (fiveFields s) (fiveFields t) :=
  (atCursor_agree skipField_agree h).thenCursor fun _ _ _ h =>
  (atCursor_agree skipField_agree h).thenCursor fun _ _ _ h =>
  (atCursor_agree byteField_agree h).thenCursor fun _ _ _ h =>
  (atCursor_agree byteField_agree h).thenCursor fun _ _ _ h =>
  (atCursor_agree valueField_agree h).thenCursor fun _ _ _ h => ⟨rfl, h⟩

/-! ### MD.DECODE of one metric, by what it finds in the frame -/

/-- What the five fields after metric `i`'s pattern yield; `none` where the pattern does not occur. -/
def metricResult (s : State) (i : Nat) : Option (Res DecodedValue) :=
  (s.findPattern (s.pattern i)).map fun o =>
    (fiveFields { s with cur := o + (s.pattern i).length }).1

/-- The value that MD.DECODE stores, absent unless all five fields are sound (R199). -/
def storedValue : Option (Res DecodedValue) → Option DecodedValue
  | some (.ok v) => some v
  | some (.fail _) => none
  | none => none

/-- The report that MD.DECODE of metric `i` emits, if any (R199). -/
def reportOf (i : Nat) : Option (Res DecodedValue) → List Output
  | some (.ok _) => []
  | some (.fail k) => [.report k.code (some i)]
  | none => []

/-- A metric's result depends on the frame alone. -/
theorem SameFrame.metricResult_eq {s t : State} (h : SameFrame s t) (i : Nat) :
    metricResult s i = metricResult t i := by
  rw [metricResult, metricResult, ← h.findPattern_eq, ← h.pattern_eq]
  refine Option.map_congr fun o _ => ?_
  have hfields : SameCursor { s with cur := o + (s.pattern i).length }
      { t with cur := o + (s.pattern i).length } := ⟨h, rfl⟩
  exact (fiveFields_agree hfields).1

/-- MD.DECODE stores its result, emits its report, and leaves the rest but for the scratch registers. -/
theorem mdDecode_eq (s : State) (i : Nat) : ∃ cur tl acc, s.mdDecode i =
    { s with
      cur := cur, tl := tl, acc := acc, dec := s.dec.set i (storedValue (metricResult s i)),
      out := s.out ++ reportOf i (metricResult s i) } := by
  obtain ⟨hfind, heq⟩ | ⟨o, cur, tl, acc, hfind, ⟨v, hres, heq⟩ | ⟨k, -, hres, heq⟩⟩ :=
    s.mdDecode_cases i
  · have hresult : metricResult s i = none := by rw [metricResult, hfind, Option.map_none]
    refine ⟨s.cur, s.tl, s.acc, ?_⟩
    rw [heq, hresult, storedValue, reportOf, List.append_nil]
  · have hresult : metricResult s i = some (.ok v) := by
      rw [metricResult, hfind, Option.map_some, hres]
    refine ⟨cur, tl, acc, ?_⟩
    rw [heq, hresult, storedValue, reportOf, List.append_nil]
  · have hresult : metricResult s i = some (.fail k) := by
      rw [metricResult, hfind, Option.map_some, hres]
    refine ⟨cur, tl, acc, ?_⟩
    rw [heq, hresult, storedValue, reportOf]

theorem mdDecode_dec (s : State) (i : Nat) :
    (s.mdDecode i).dec = s.dec.set i (storedValue (metricResult s i)) := by
  obtain ⟨cur, tl, acc, heq⟩ := mdDecode_eq s i
  rw [heq]

theorem mdDecode_out (s : State) (i : Nat) :
    (s.mdDecode i).out = s.out ++ reportOf i (metricResult s i) := by
  obtain ⟨cur, tl, acc, heq⟩ := mdDecode_eq s i
  rw [heq]

@[simp] theorem mdDecode_buf (s : State) (i : Nat) : (s.mdDecode i).buf = s.buf := by
  obtain ⟨cur, tl, acc, heq⟩ := mdDecode_eq s i
  rw [heq]

@[simp] theorem mdDecode_len (s : State) (i : Nat) : (s.mdDecode i).len = s.len := by
  obtain ⟨cur, tl, acc, heq⟩ := mdDecode_eq s i
  rw [heq]

@[simp] theorem mdDecode_cfg (s : State) (i : Nat) : (s.mdDecode i).cfg = s.cfg := by
  obtain ⟨cur, tl, acc, heq⟩ := mdDecode_eq s i
  rw [heq]

theorem mdDecode_sameFrame (s : State) (i : Nat) : SameFrame (s.mdDecode i) s :=
  ⟨mdDecode_cfg s i, mdDecode_len s i, fun k _ => by rw [mdDecode_buf]⟩

/-! ### A pass over the metrics -/

/-- A list of operations that complete under an invariant is the fold of what they do. -/
theorem execAll_map_eq_foldl {β : Type} (P : State → Prop) {op : β → Instr}
    {f : State → β → State} (l : List β)
    (hop : ∀ b ∈ l, ∀ t, P t → exec (op b) t = .next (f t b) ∧ P (f t b)) {s : State} (hs : P s) :
    execAll (l.map op) s = .next (l.foldl f s) := by
  induction l generalizing s with
  | nil => rfl
  | cons b l ih =>
    obtain ⟨hexec, hkeep⟩ := hop b List.mem_cons_self s hs
    rw [List.map_cons, execAll, hexec, Outcome.andThen_next, List.foldl_cons]
    exact ih (fun c hc => hop c (List.mem_cons_of_mem b hc)) hkeep

/-- Storing values by index: every index listed holds its own value at the end. -/
theorem getElem?_foldl_set {α : Type} (v : Nat → α) {l : List Nat} {i : Nat} (hi : i ∈ l)
    (d : List α) : (l.foldl (fun d j => d.set j (v j)) d)[i]? = (d.set i (v i))[i]? := by
  induction l using List.reverseRecOn with
  | nil => cases hi
  | append_singleton l j ih =>
    have hlength : (l.foldl (fun d j => d.set j (v j)) d).length = d.length :=
      foldl_keeps (fun d' => d'.length = d.length) (fun _ _ h => List.length_set.trans h) l d rfl
    rw [List.foldl_append, List.foldl_cons, List.foldl_nil]
    by_cases hj : j = i
    · rw [hj, List.getElem?_set, List.getElem?_set, if_pos rfl, if_pos rfl, hlength]
    · rw [List.getElem?_set_ne hj]
      exact ih ((List.mem_append.1 hi).resolve_right fun h => hj (List.mem_singleton.1 h).symm)

/-- The pass keeps the frame, so each metric stores and reports what the first state gives. -/
theorem foldl_mdDecode (l : List Nat) {s t : State} (h : SameFrame t s) :
    (l.foldl (fun t i => t.mdDecode i) t).dec =
        l.foldl (fun d i => d.set i (storedValue (metricResult s i))) t.dec ∧
      (l.foldl (fun t i => t.mdDecode i) t).out =
        t.out ++ l.flatMap fun i => reportOf i (metricResult s i) := by
  induction l generalizing t with
  | nil => exact ⟨rfl, (List.append_nil _).symm⟩
  | cons i l ih =>
    obtain ⟨hdec, hout⟩ := ih ((mdDecode_sameFrame t i).trans h)
    rw [List.foldl_cons, hdec, hout, mdDecode_dec, mdDecode_out, h.metricResult_eq i,
      List.foldl_cons, List.flatMap_cons, List.append_assoc]
    exact ⟨rfl, rfl⟩

theorem mdAll_out (s : State) : s.mdAll.out =
    s.out ++ (List.range s.cfg.metricCount).flatMap fun i => reportOf i (metricResult s i) :=
  (foldl_mdDecode _ (SameFrame.refl s)).2

/-- MD.ALL leaves at a metric's index what MD.DECODE of that metric alone leaves there. -/
theorem mdAll_dec_getElem? (s : State) {i : Nat} (hi : i < s.cfg.metricCount) :
    s.mdAll.dec[i]? = (s.mdDecode i).dec[i]? := by
  rw [mdDecode_dec, State.mdAll, (foldl_mdDecode _ (SameFrame.refl s)).1]
  exact getElem?_foldl_set (fun i => storedValue (metricResult s i)) (List.mem_range.2 hi) s.dec

theorem mdAll_buf (s : State) : s.mdAll.buf = s.buf :=
  s.mdAll_keeps (fun t => t.buf = s.buf) (fun t i h => (mdDecode_buf t i).trans h) rfl

/-- MD.ALL is the MD.DECODE operations one after the other: none of them changes what they all need. -/
theorem execAll_mdDecode_eq {s : State} (hcap : s.len ≤ s.cfg.capacity) :
    execAll ((List.range s.cfg.metricCount).map .mdDecode) s = .next s.mdAll := by
  refine execAll_map_eq_foldl (fun t => t.len = s.len ∧ t.cfg = s.cfg) _ (fun i hi t ht => ?_)
    ⟨rfl, rfl⟩
  obtain ⟨hlen, hcfg⟩ := ht
  have hmetric : i < t.cfg.metricCount := hcfg ▸ List.mem_range.1 hi
  rw [exec_mdDecode, execMdDecode_eq t hmetric (by rw [hlen, hcfg]; exact hcap), mdDecode_len,
    mdDecode_cfg]
  exact ⟨rfl, hlen, hcfg⟩

/-! ### The statements -/

/-- Settles O29: the search's two results are the two clauses. -/
theorem mdFindGivesTheLowestOffset : Obligations.MdFindGivesTheLowestOffset := by
  intro s i m hm hcap
  refine ⟨s.findPattern m.pattern, ?_, fun _ => firstAt_of_findPattern, s.findPattern_none.1⟩
  rw [exec_mdFind, execMdFind_eq s (index_lt_metricCount hm) hcap, s.pattern_eq hm, State.latch]

/-- Settles O39: MD.ALL is a fold of MD.DECODE, in which the events of metric `i` are those of its
result in the first state, because the frame that the result depends on stays. -/
theorem mdAllDecodesEveryMetricInOrder : Obligations.MdAllDecodesEveryMetricInOrder := by
  intro s hcap
  refine ⟨s.mdAll, ?_, execAll_mdDecode_eq hcap, mdAll_buf s,
    fun i => reportOf i (metricResult s i), mdAll_out s, fun i hi => ?_⟩
  · rw [exec_mdAll, execMdAll_eq s hcap]
  · refine ⟨s.mdDecode i, ?_, mdAll_dec_getElem? s hi, mdDecode_out s i⟩
    rw [exec_mdDecode, execMdDecode_eq s hi hcap]

/-- Settles O30: RD by its two results (R183). -/
theorem rdReadsBelowTheLengthOnly : Obligations.RdReadsBelowTheLengthOnly := by
  intro s k hcap
  rw [exec_rd]
  exact ⟨execRd_in hcap, execRd_out hcap⟩

/-- Settles O31: the bounds come first, and both checks of the tag fail in the same way (R184). -/
theorem tlvTagChecksBoundsThenXThenL : Obligations.TlvTagChecksBoundsThenXThenL := by
  intro s hcap
  rw [exec_tlvTag]
  exact ⟨execTlvTag_out hcap, fun hcur hx => execTlvTag_bad hcap hcur (.inl hx),
    fun hcur _ hl => execTlvTag_bad hcap hcur (.inr hl), execTlvTag_good hcap⟩

end Sys2Proof.Proofs.MetricDecoder
end

section
/-! PROOFS. The publisher (spec/44_publisher.md): the rounding of PUB.SCALE, what one PUB.WRITE emits
and writes, and PUB.ALL, in which each metric writes its own slot only. -/

namespace Sys2Proof.Proofs.Publisher

open Sys2Proof Sys2Proof.Machine
open Sys2Proof.Proofs.MetricDecoder (execAll_map_eq_foldl)

/-! ### The dispatch of the operations -/

theorem exec_pubScale (rv : AccWord) (sc : Byte) (s : State) :
    exec (.pubScale rv sc) s = execPubScale rv sc s := rfl

theorem exec_pubWrite (i : Nat) (s : State) : exec (.pubWrite i) s = execPubWrite i s := rfl

theorem exec_pubAll (s : State) : exec .pubAll s = .next s.pubAll := rfl

/-! ### Rounding to the nearest integer (R217) -/

/-- The rounding works on the magnitude and puts the sign back. -/
theorem roundDiv_cases (rv : Int) (d : Nat) :
    (rv < 0 ∧ roundDiv rv d = -((2 * rv.natAbs + d) / (2 * d) : Nat)) ∨
      (0 ≤ rv ∧ roundDiv rv d = ((2 * rv.natAbs + d) / (2 * d) : Nat)) := by
  by_cases hneg : rv < 0
  · exact .inl ⟨hneg, if_pos hneg⟩
  · exact .inr ⟨not_lt.1 hneg, if_neg hneg⟩

/-- The error of the rounded magnitude, doubled, lies above `-d` and is at most `d`: an exact half goes
up. -/
theorem roundedMagnitude_bounds (n : Nat) {d : Nat} (hd : 0 < d) :
    2 * (d * ((2 * n + d) / (2 * d))) ≤ 2 * n + d ∧
      2 * n < 2 * (d * ((2 * n + d) / (2 * d))) + d := by
  have hdiv : 2 * d * ((2 * n + d) / (2 * d)) + (2 * n + d) % (2 * d) = 2 * n + d :=
    Nat.div_add_mod _ _
  have hmod : (2 * n + d) % (2 * d) < 2 * d := Nat.mod_lt _ (by omega)
  rw [Nat.mul_assoc] at hdiv
  omega

/-- The rounded quotient times `d` differs from `rv` by at most half of `d`, and by exactly half only
away from zero: with the sign put back, both are the bounds on the magnitude. -/
theorem roundDiv_nearest (rv : Int) {d : Nat} (hd : 0 < d) :
    2 * |(d : Int) * roundDiv rv d - rv| ≤ d ∧
      (2 * |(d : Int) * roundDiv rv d - rv| = d → |rv| < |(d : Int) * roundDiv rv d|) := by
  obtain ⟨hle, hlt⟩ := roundedMagnitude_bounds rv.natAbs hd
  simp only [Int.abs_eq_natAbs]
  obtain ⟨hneg, hround⟩ | ⟨hpos, hround⟩ := roundDiv_cases rv d
  · rw [hround, mul_neg, ← Nat.cast_mul]
    omega
  · rw [hround, ← Nat.cast_mul]
    omega

/-! ### What one PUB.WRITE emits and writes (R219) -/

/-- The events of metric `i`'s PUB.WRITE. -/
def pubEvents (s : State) (i : Nat) : List Output :=
  match s.dec[i]?.join with
  | none => []
  | some v =>
    if s.cfg.slotCount ≤ i then [.report 4 (some i)]
    else if fitsSlot s.cfg.slotWidth v.scaled = true then
      [.slotwr i (slotBits s.cfg.slotWidth v.scaled)]
    else [.report 7 (some i)]

/-- PUB.WRITE emits the metric's events, and its only other effect is that of their slot writes. -/
theorem pubWrite_eq (s : State) (i : Nat) : s.pubWrite i =
    { s with
      slots := applyWrites s.slots (pubEvents s i), out := s.out ++ pubEvents s i } := by
  rw [pubEvents]
  cases hdec : s.dec[i]?.join with
  | none =>
    rw [s.pubWrite_absent hdec, List.append_nil, applyWrites]
  | some v =>
    by_cases hslot : s.cfg.slotCount ≤ i
    · rw [s.pubWrite_noSlot hdec hslot]
      simp only [if_pos hslot, applyWrites]
    · by_cases hfits : fitsSlot s.cfg.slotWidth v.scaled = true
      · rw [s.pubWrite_fits hdec (not_le.1 hslot) hfits]
        simp only [if_neg hslot, if_pos hfits, applyWrites]
      · rw [s.pubWrite_range hdec (not_le.1 hslot) hfits]
        simp only [if_neg hslot, if_neg hfits, applyWrites]

theorem pubWrite_slots (s : State) (i : Nat) :
    (s.pubWrite i).slots = applyWrites s.slots (pubEvents s i) := by rw [pubWrite_eq]

theorem pubWrite_out (s : State) (i : Nat) : (s.pubWrite i).out = s.out ++ pubEvents s i := by
  rw [pubWrite_eq]

@[simp] theorem pubWrite_cfg (s : State) (i : Nat) : (s.pubWrite i).cfg = s.cfg := by
  rw [pubWrite_eq]

@[simp] theorem pubWrite_dec (s : State) (i : Nat) : (s.pubWrite i).dec = s.dec := by
  rw [pubWrite_eq]

/-- The events depend on the decoded values and the configuration alone. -/
theorem pubEvents_congr {s t : State} (hdec : t.dec = s.dec) (hcfg : t.cfg = s.cfg) (i : Nat) :
    pubEvents t i = pubEvents s i := by
  rw [pubEvents, pubEvents, hdec, hcfg]

theorem pubEvents_pubWrite (s : State) (i : Nat) : pubEvents (s.pubWrite i) = pubEvents s :=
  funext (pubEvents_congr (pubWrite_dec s i) (pubWrite_cfg s i))

/-- A metric's events write no slot, or its own slot once. -/
theorem applyWrites_pubEvents (s : State) (i : Nat) :
    (∀ slots, applyWrites slots (pubEvents s i) = slots) ∨
      ∃ v, ∀ slots, applyWrites slots (pubEvents s i) = slots.set i v := by
  rw [pubEvents]
  split
  next => exact .inl fun _ => rfl
  next v _ =>
    split_ifs
    · exact .inl fun _ => rfl
    · exact .inr ⟨_, fun _ => rfl⟩
    · exact .inl fun _ => rfl

/-- A metric's events leave every other slot. -/
theorem getElem?_applyWrites_pubEvents_ne (s : State) (slots : List SlotWord) {i j : Nat}
    (hne : j ≠ i) : (applyWrites slots (pubEvents s j))[i]? = slots[i]? := by
  obtain hkeep | ⟨v, hset⟩ := applyWrites_pubEvents s j
  · rw [hkeep]
  · rw [hset, List.getElem?_set_ne hne]

/-- What a metric's events leave in its own slot does not depend on the other slots. -/
theorem getElem?_applyWrites_pubEvents_self (s : State) {slots slots' : List SlotWord} {i : Nat}
    (h : slots[i]? = slots'[i]?) :
    (applyWrites slots (pubEvents s i))[i]? = (applyWrites slots' (pubEvents s i))[i]? := by
  obtain hkeep | ⟨v, hset⟩ := applyWrites_pubEvents s i
  · rw [hkeep, hkeep, h]
  · rw [hset, hset, List.getElem?_set_self', List.getElem?_set_self', h]

/-! ### PUB.ALL -/

/-- A pass in which step `j` changes index `j` only, and that from what stands there only, leaves at
each index what its own step alone leaves. -/
theorem getElem?_foldl_of_ownIndex {α : Type} {g : List α → Nat → List α}
    (hother : ∀ d i j, j ≠ i → (g d j)[i]? = d[i]?)
    (hown : ∀ d d' i, d[i]? = d'[i]? → (g d i)[i]? = (g d' i)[i]?)
    {l : List Nat} (hl : l.Nodup) {i : Nat} (hi : i ∈ l) (d : List α) :
    (l.foldl g d)[i]? = (g d i)[i]? := by
  induction l generalizing d with
  | nil => cases hi
  | cons j l ih =>
    obtain ⟨hj, hl⟩ := List.nodup_cons.1 hl
    rw [List.foldl_cons]
    rcases List.mem_cons.1 hi with rfl | hi
    · exact List.foldlRecOn (motive := fun d' => d'[i]? = (g d i)[i]?) l g rfl
        fun d' hd' k hk => (hother d' i k fun h => hj (h ▸ hk)).trans hd'
    · have hne : j ≠ i := fun h => hj (h ▸ hi)
      rw [ih hl hi]
      exact hown _ _ i (hother d i j hne)

/-- The decoded values stay, so each metric's events are those of the first state. -/
theorem foldl_pubWrite (l : List Nat) (s : State) :
    (l.foldl (fun t i => t.pubWrite i) s).slots =
        l.foldl (fun slots i => applyWrites slots (pubEvents s i)) s.slots ∧
      (l.foldl (fun t i => t.pubWrite i) s).out = s.out ++ l.flatMap (pubEvents s) := by
  induction l generalizing s with
  | nil => exact ⟨rfl, (List.append_nil _).symm⟩
  | cons i l ih =>
    obtain ⟨hslots, hout⟩ := ih (s.pubWrite i)
    rw [pubEvents_pubWrite] at hslots hout
    rw [List.foldl_cons, hslots, hout, pubWrite_slots, pubWrite_out, List.foldl_cons,
      List.flatMap_cons, List.append_assoc]
    exact ⟨rfl, rfl⟩

theorem pubAll_out (s : State) :
    s.pubAll.out = s.out ++ (List.range s.cfg.metricCount).flatMap (pubEvents s) :=
  (foldl_pubWrite _ s).2

/-- PUB.ALL leaves in a metric's slot what PUB.WRITE of that metric alone leaves there. -/
theorem pubAll_slots_getElem? (s : State) {i : Nat} (hi : i < s.cfg.metricCount) :
    s.pubAll.slots[i]? = (s.pubWrite i).slots[i]? := by
  rw [pubWrite_slots, State.pubAll, (foldl_pubWrite _ s).1]
  exact getElem?_foldl_of_ownIndex
    (fun slots _ _ hne => getElem?_applyWrites_pubEvents_ne s slots hne)
    (fun _ _ _ h => getElem?_applyWrites_pubEvents_self s h)
    List.nodup_range (List.mem_range.2 hi) s.slots

/-- PUB.ALL is the PUB.WRITE operations one after the other: each index stays a metric index. -/
theorem execAll_pubWrite_eq (s : State) :
    execAll ((List.range s.cfg.metricCount).map .pubWrite) s = .next s.pubAll := by
  refine execAll_map_eq_foldl (fun t => t.cfg = s.cfg) _ (fun i hi t hcfg => ?_) rfl
  have hmetric : i < t.cfg.metricCount := hcfg ▸ List.mem_range.1 hi
  rw [exec_pubWrite, execPubWrite_eq t hmetric, pubWrite_cfg]
  exact ⟨rfl, hcfg⟩

/-! ### The statements -/

/-- Settles O43: PUB.ALL is a fold of PUB.WRITE, in which the events of metric `i` are those of the
first state, because no PUB.WRITE changes a decoded value, and they write slot `i` only. -/
theorem pubAllPublishesEveryMetricInOrder : Obligations.PubAllPublishesEveryMetricInOrder := by
  intro s
  refine ⟨s.pubAll, exec_pubAll s, execAll_pubWrite_eq s, pubEvents s, pubAll_out s,
    fun i hi => ⟨s.pubWrite i, ?_, pubAll_slots_getElem? s hi, pubWrite_out s i⟩⟩
  rw [exec_pubWrite, execPubWrite_eq s hi]

/-- Settles O40: the exact product for an exponent of at least 0, else the rounded quotient
(`roundDiv_nearest`). -/
theorem pubScaleIsExactOrNearestHalvesAwayFromZero :
    Obligations.PubScaleIsExactOrNearestHalvesAwayFromZero := by
  intro s rv sc
  refine ⟨pubScale rv.toInt sc.toInt, ?_, fun hexp => ?_, fun hexp => ?_⟩
  · rw [exec_pubScale, execPubScale, State.latch]
  · exact if_pos hexp
  · have hround : pubScale rv.toInt sc.toInt =
        roundDiv rv.toInt (10 ^ (-(sc.toInt + 3)).toNat) := if_neg (not_le.2 hexp)
    have hnear := roundDiv_nearest rv.toInt (pow_pos (by decide : 0 < 10) (-(sc.toInt + 3)).toNat)
    rw [hround]
    rwa [Nat.cast_pow] at hnear

end Sys2Proof.Proofs.Publisher
end

section
/-! PROOFS. The checksum in its two forms (spec/41_checksum.md R131 to R134): the right-shifting
register of the model is the bit reversal of the left-shifting one of the parameters, step by step. -/

namespace Sys2Proof.Proofs.Checksum

open Sys2Proof Sys2Proof.Machine

/-! ### Bit reversal and the operations of the register -/

theorem reverse_xor {w : Nat} (x y : BitVec w) :
    (x ^^^ y).reverse = x.reverse ^^^ y.reverse := by
  ext i hi
  simp only [BitVec.getElem_xor, BitVec.getElem_reverse, BitVec.getMsbD_xor]

theorem reverse_ushiftRight {w : Nat} (x : BitVec w) (n : Nat) :
    (x >>> n).reverse = x.reverse <<< n := by
  ext i hi
  simp [BitVec.getElem_reverse, BitVec.getMsbD_ushiftRight, hi]

/-- A byte in the low half of the register is, reversed, the reversed byte in the top half. -/
theorem reverse_setWidth_byte (b : Byte) :
    (b.setWidth 16).reverse = b.reverse.setWidth 16 <<< 8 := by
  revert b
  decide

/-! ### One shift, one byte, one sequence (R133) -/

theorem crcParamShift_reverse (c : CrcWord) : crcParamShift c.reverse = (crcShift c).reverse := by
  have hpoly : crcPoly.reverse = 0x1021 := by decide
  have hbit : c.reverse.getLsbD 15 = c.getLsbD 0 := by
    rw [BitVec.getLsbD_reverse, BitVec.getMsbD_eq_getLsbD]
    rfl
  rw [crcParamShift, crcShift, hbit]
  split_ifs
  · rw [reverse_xor, reverse_ushiftRight, hpoly]
  · rw [reverse_ushiftRight]

theorem crcParamShifts_reverse (n : Nat) (c : CrcWord) :
    crcParamShifts n c.reverse = (crcShifts n c).reverse := by
  induction n generalizing c with
  | zero => rfl
  | succ n ih => rw [crcParamShifts, crcShifts, crcParamShift_reverse, ih]

theorem crcParamByte_reverse (c : CrcWord) (b : Byte) :
    crcParamByte c.reverse b = (crcByte c b).reverse := by
  rw [crcParamByte, crcByte, ← reverse_setWidth_byte, ← reverse_xor, crcParamShifts_reverse]

theorem foldl_crcParamByte_reverse (bs : List Byte) (c : CrcWord) :
    bs.foldl crcParamByte c.reverse = (bs.foldl crcByte c).reverse := by
  induction bs generalizing c with
  | nil => rfl
  | cons b bs ih => rw [List.foldl_cons, List.foldl_cons, crcParamByte_reverse, ih]

/-- The two forms agree on every byte sequence: the initial register is its own reversal. -/
theorem crcParam_eq_crcOf (bs : List Byte) : crcParam bs = crcOf bs := by
  have hinit : (0xFFFF : CrcWord) = crcInit.reverse := by decide
  rw [crcParam, hinit, foldl_crcParamByte_reverse, BitVec.reverse_reverse_eq, ← hinit,
    crcOf, crcRun, crcXorOut]

/-! ### The comparison with the stored bytes (R134) -/

/-- The stored checksum is the little-endian value of its two bytes (R96). -/
theorem storedChecksum_toNat (lo hi : Byte) :
    (storedChecksum lo hi).toNat = lo.toNat + 256 * hi.toNat := by
  rw [storedChecksum, BitVec.toNat_append, ← Nat.shiftLeft_add_eq_or_of_lt lo.isLt,
    Nat.shiftLeft_eq]
  omega

/-- CRC.VERIFY's result in the parameter form. -/
theorem crcVerify_flag_iff (s : State) : s.crcVerify.1 = true ↔
    (crcParam (s.bufSlice 0 (s.len - 2))).toNat =
      (s.buf.read (s.len - 2)).toNat + 256 * (s.buf.read (s.len - 1)).toNat := by
  rw [s.crcVerify_flag, decide_eq_true_iff, crcParam_eq_crcOf, ← storedChecksum_toNat,
    BitVec.toNat_inj]

end Sys2Proof.Proofs.Checksum
end

section
/-! PROOFS. DECODE of a whole frame (spec/42_framing_fsm.md R158, spec/60_exceptions.md R240). -/

namespace Sys2Proof.Proofs.DecodeFrame

open Sys2Proof Sys2Proof.Machine
open Sys2Proof.Proofs.Checksum (crcVerify_flag_iff)
open Sys2Proof.Proofs.Framing (report_enterAs_eq)

theorem exec_decode_of_decode {s : State} (h : s.st = .decode) :
    exec .decode s = s.decodeFrame := s.inState_eq h _

/-- Settles O26: the comparison fails, so DECODE is the error's report and recovery (R238) on the state
CRC.VERIFY leaves, which differs in `crc` only; the metric decoder and the publisher do not run. -/
theorem decodeDiscardsFrameOnChecksumMismatch :
    Obligations.DecodeDiscardsFrameOnChecksumMismatch := by
  intro s hst hlen hcap hne
  have hflag : s.crcVerify.1 = false :=
    Bool.eq_false_iff.2 fun hv => hne ((crcVerify_flag_iff s).1 hv)
  rw [exec_decode_of_decode hst, s.decodeFrame_mismatch hlen hcap hflag,
    State.raise_checksumMismatch, report_enterAs_eq, s.crcVerify_state, ErrKind.code]
  exact ⟨_, rfl, rfl⟩

end Sys2Proof.Proofs.DecodeFrame
end

section
/-! PROOFS. RESET (spec/70_reset_and_hazards.md R270). -/

namespace Sys2Proof.Proofs.Reset

open Sys2Proof Sys2Proof.Machine

theorem exec_reset (ss : FrameState) (now : Time) (s : State) :
    exec (.reset ss now) s = execReset ss now s := rfl

/-- RESET writes five elements and leaves the rest, for every time operand: `tnow` and `tlast` take its
`TIMEW` bits. -/
theorem execReset_eq (ss : FrameState) (now : Time) (s : State) :
    execReset ss now s = .next
      { s with
        tnow := timeOf s.cfg.timeWidth now, st := .awaitStart, len := 0,
        tlast := timeOf s.cfg.timeWidth now, dec := List.replicate s.cfg.metricCount none } := rfl

/-- Settles O7: a `now` that fits in `TIMEW` bits is the time that RESET writes (`timeOf_of_lt`). -/
theorem resetWritesExactlyWhatItsRuleNames : Obligations.ResetWritesExactlyWhatItsRuleNames := by
  intro s ss now hnow
  rw [exec_reset, execReset_eq, timeOf_of_lt hnow]

end Sys2Proof.Proofs.Reset
end

section
/-! PROOFS. What the operations are made of: every operation that completes is a sequence of the
elementary updates listed here. A property that each of them keeps is kept by every operation and by
every step: the sane form of the state, the configuration and the bookkeeping, and that the slots are
the effect of the emitted writes. -/

namespace Sys2Proof.Proofs.Updates

open Sys2Proof Sys2Proof.Machine
open Relation (ReflTransGen)

/-! ### The elementary updates -/

/-- One write to the state, with the bound that its rule gives the values written. -/
inductive Update : State → State → Prop
  /-- The result latch of a sub-operation issued on its own. -/
  | latch (s : State) (r : OpResult) : Update s (s.latch r)
  /-- The scratch registers (R27 to R29). -/
  | scratch (s : State) (crc : CrcWord) (cur : Nat) (acc : AccWord) (tl : Byte) :
      Update s { s with crc := crc, cur := cur, acc := acc, tl := tl }
  /-- A byte stored at `len`, and `len` set (R117, R151). -/
  | store (s : State) (b : Byte) (n : Nat) : s.len < s.cfg.capacity → n ≤ s.cfg.capacity →
      Update s { s with buf := s.buf.write s.len b, len := n }
  /-- `len <- 0` (R116). -/
  | rewind (s : State) : Update s s.bufReset
  /-- The framing state and the trailer counter. -/
  | framing (s : State) (q : FrameState) (n : BitVec 2) : Update s { s with st := q, trem := n }
  /-- `tnow <- now` (R148, R270). -/
  | sampleTime (s : State) (now : Time) : Update s (s.setTime now)
  /-- `tlast <- tnow` (R147). -/
  | markTime (s : State) : Update s { s with tlast := s.tnow }
  /-- A decoded value stored or made absent (R198, R199). -/
  | decoded (s : State) (i : Nat) (v : Option DecodedValue) : Update s { s with dec := s.dec.set i v }
  /-- Every decoded value made absent (R270). -/
  | clearDecoded (s : State) : Update s { s with dec := List.replicate s.cfg.metricCount none }
  /-- A report emitted (R255). -/
  | report (s : State) (code : Nat) (idx : Option Nat) : Update s (s.emit (.report code idx))
  /-- A slot written, and the write emitted (R254). -/
  | slotWrite (s : State) (i : Nat) (v : SlotWord) : v < 2 ^ s.cfg.slotWidth →
      Update s (s.slotWrite i v)

/-- A sequence of elementary updates. -/
abbrev Reaches : State → State → Prop := ReflTransGen Update

/-! ### The shared operations as sequences of updates -/

theorem reaches_enterAs (s : State) : Reaches s s.enterAs :=
  ((ReflTransGen.single (.framing s .awaitStart s.trem)).tail (.rewind _)).tail (.markTime _)

theorem reaches_raise (s : State) (k : ErrKind) (idx : Option Nat) : Reaches s (s.raise k idx) := by
  have hreport : Reaches s (s.report k idx) := .single (.report s k.code idx)
  have habsent : ∀ i, Reaches s { s.report k idx with dec := (s.report k idx).dec.set i none } :=
    fun i => hreport.tail (.decoded _ i none)
  cases k with
  | bufferOverflow => exact hreport.trans (reaches_enterAs _)
  | checksumMismatch => exact hreport.trans (reaches_enterAs _)
  | timeout => exact hreport.trans (reaches_enterAs _)
  | sinkSlotExhausted => exact hreport
  | valueOutOfRange => exact hreport
  | unsupportedFieldLength =>
    cases idx with
    | none => exact hreport
    | some i => exact habsent i
  | outOfRange =>
    cases idx with
    | none => exact hreport
    | some i => exact habsent i

/-- The decoder's field operations write scratch registers only. -/
theorem reaches_of_scratch {s t : State} (h : s.Scratch t) : Reaches s t := by
  rw [State.Scratch] at h
  rw [h]
  exact .single (.scratch s s.crc _ _ _)

theorem reaches_latchRes {α : Type} {s : State} {f : α → OpResult} {r : Res α × State}
    (h : InFrame s r) : Reaches s (latchRes f r) := by
  obtain ⟨a | k, t⟩ := r
  · exact (reaches_of_scratch h.1).tail (.latch t (f a))
  · exact (reaches_of_scratch h.1).tail (.latch t (.fail k))

theorem reaches_crcSpan (s : State) (lo hi : Nat) : Reaches s (s.crcSpan lo hi).2 :=
  .single (.scratch s _ s.cur s.acc s.tl)

/-- BUF.APPEND up to a limit within BUF stores below `C` (R117). -/
theorem reaches_bufAppend (s : State) (b : Byte) {limit : Nat} (h : limit ≤ s.cfg.capacity) :
    Reaches s (s.bufAppend b limit).2 := by
  by_cases hroom : s.len + 1 ≤ limit
  · rw [s.bufAppend_ok hroom]
    exact .single (.store s b _ (by omega) (by omega))
  · rw [s.bufAppend_overflow (by omega)]

theorem reaches_mdDecode (s : State) (i : Nat) : Reaches s (s.mdDecode i) := by
  obtain ⟨-, heq⟩ | ⟨o, cur, tl, acc, -, ⟨v, -, heq⟩ | ⟨k, -, -, heq⟩⟩ := s.mdDecode_cases i
  · rw [heq]
    exact .single (.decoded s i none)
  · rw [heq]
    exact (ReflTransGen.single (.scratch s s.crc cur acc tl)).tail (.decoded _ i (some v))
  · rw [heq]
    exact ((ReflTransGen.single (.scratch s s.crc cur acc tl)).tail (.decoded _ i none)).tail
      (.report _ k.code (some i))

theorem reaches_mdAll (s : State) : Reaches s s.mdAll :=
  s.mdAll_keeps (Reaches s) (fun t i h => h.trans (reaches_mdDecode t i)) .refl

theorem reaches_pubWrite (s : State) (i : Nat) : Reaches s (s.pubWrite i) := by
  obtain heq | ⟨n, heq⟩ | ⟨v, hv, heq⟩ := s.pubWrite_cases i
  · rw [heq]
  · rw [heq]
    exact .single (.report s n (some i))
  · rw [heq]
    exact .single (.slotWrite s i v hv)

theorem reaches_pubAll (s : State) : Reaches s s.pubAll :=
  s.pubAll_keeps (Reaches s) (fun t i h => h.trans (reaches_pubWrite t i)) .refl

/-! ### The framing machine as sequences of updates -/

theorem reaches_tmoChk (s : State) : Reaches s s.tmoChk := by
  rw [State.tmoChk]
  split_ifs
  · exact reaches_raise s _ _
  · exact .refl

/-- RX.AS stores below `C`, and no match count exceeds the length it comes from by more than one. -/
theorem reaches_rxAs {s t : State} {b : Byte} (h : s.rxAs b = .next t) : Reaches s t := by
  obtain ⟨hroom, ⟨-, -, rfl⟩ | ⟨-, -, rfl⟩ | ⟨-, rfl⟩⟩ := s.rxAs_cases h
  · exact .single (.store s b _ hroom hroom)
  · exact (ReflTransGen.single (.store s b _ hroom hroom)).tail (.framing _ .accumulateBody s.trem)
  · exact .single (.store s b 0 hroom (Nat.zero_le _))

theorem reaches_rxAb (s : State) (b : Byte) : Reaches s (s.rxAb b) := by
  obtain ⟨-, heq⟩ | ⟨hroom, -, heq⟩ | ⟨hroom, -, heq⟩ := s.rxAb_cases b
  · rw [heq]
    exact reaches_raise s _ _
  · have hstore : Update s (s.stored b) := .store s b _ (by omega) (by omega)
    rw [heq]
    exact (ReflTransGen.single hstore).tail (.framing _ .readTrailer _)
  · rw [heq]
    exact .single (.store s b _ (by omega) (by omega))

theorem reaches_rxRt (s : State) (b : Byte) : Reaches s (s.rxRt b) := by
  have happend := reaches_bufAppend s b (Nat.le_refl s.cfg.capacity)
  rw [State.rxRt]
  split_ifs
  · exact happend.tail (.framing _ .decode _)
  · exact happend.tail (.framing _ (s.bufAppend b s.cfg.capacity).2.st _)

theorem reaches_rx {s t : State} {b : Byte} (h : s.rx b = .next t) : Reaches s t := by
  cases hst : s.st with
  | awaitStart =>
    rw [s.rx_awaitStart b hst] at h
    exact reaches_rxAs h
  | accumulateBody =>
    rw [s.rx_accumulateBody b hst] at h
    cases h
    exact reaches_rxAb s b
  | readTrailer =>
    rw [s.rx_readTrailer b hst] at h
    cases h
    exact reaches_rxRt s b
  | decode =>
    rw [s.rx_decode b hst] at h
    cases h

theorem reaches_decodeFrame {s t : State} (h : s.decodeFrame = .next t) : Reaches s t := by
  have hcrc : Reaches s s.crcVerify.2 := reaches_crcSpan s 0 (s.len - 2)
  obtain ⟨-, -, ⟨-, rfl⟩ | ⟨-, rfl⟩⟩ := s.decodeFrame_cases h
  · exact hcrc.trans (reaches_raise _ _ _)
  · exact ((hcrc.trans (reaches_mdAll _)).trans (reaches_pubAll _)).trans (reaches_enterAs _)

theorem reaches_settle {s t : State} (h : s.settle = .next t) : Reaches s t := by
  by_cases hst : s.st = .decode
  · rw [s.settle_decode hst] at h
    exact reaches_decodeFrame h
  · rw [s.settle_other hst] at h
    cases h
    exact .refl

theorem reaches_feed (bs : List Byte) {s t : State} (h : s.feed bs = .next t) : Reaches s t := by
  induction bs generalizing s with
  | nil =>
    cases h
    exact .refl
  | cons b bs ih =>
    obtain ⟨v, hbyte, hfeed⟩ := Outcome.andThen_eq_next h
    obtain ⟨u, hrx, hsettle⟩ := Outcome.andThen_eq_next hbyte
    exact ((reaches_rx hrx).trans (reaches_settle hsettle)).trans (ih hfeed)

theorem reaches_deliver {bs : List Byte} {s t : State} (h : s.deliver bs = .next t) :
    Reaches s t := by
  obtain ⟨u, hsettle, hfeed⟩ := Outcome.andThen_eq_next h
  exact (reaches_settle hsettle).trans (reaches_feed bs hfeed)

theorem reaches_tick {now : Time} {bs : List Byte} {s t : State} (h : s.tick now bs = .next t) :
    Reaches s t :=
  ((ReflTransGen.single (.sampleTime s now)).trans (reaches_tmoChk _)).trans (reaches_deliver h)

theorem reaches_reset (s : State) (now : Time) : Reaches s
    { s.setTime now with
      st := .awaitStart, len := 0, tlast := timeOf s.cfg.timeWidth now,
      dec := List.replicate s.cfg.metricCount none } :=
  ((ReflTransGen.single (.sampleTime s now)).trans (reaches_enterAs _)).tail (.clearDecoded _)

/-! ### Operations under a condition -/

theorem eq_of_readingBuf_eq_next {s t : State} {o : Outcome} (h : s.readingBuf o = .next t) :
    o = .next t := by
  rw [State.readingBuf] at h
  split_ifs at h
  exact h

theorem eq_of_inState_eq_next {s t : State} {q : FrameState} {o : Outcome}
    (h : s.inState q o = .next t) : s.st = q ∧ o = .next t := by
  rw [State.inState] at h
  split_ifs at h with hst
  exact ⟨hst, h⟩

/-- A guarded operation that completes has passed its guard. -/
theorem eq_of_ite_refused_eq_next {c : Prop} [Decidable c] {o : Outcome} {r : Refusal} {t : State}
    (h : (if c then o else .refused r) = .next t) : o = .next t := by
  split_ifs at h
  exact h

/-- A decoder operation issued on its own, its result latched. -/
theorem reaches_readingBuf_latchRes {α : Type} {s t : State} {f : α → OpResult}
    {r : Res α × State} (hr : InFrame s r) (h : s.readingBuf (.next (latchRes f r)) = .next t) :
    Reaches s t := by
  cases eq_of_readingBuf_eq_next h
  exact reaches_latchRes hr

theorem reaches_tagged {f : Field} {tag : Byte} {s t : State} (h : s.tagged f tag = .next t) :
    Reaches s t := by
  cases f with
  | status => exact reaches_readingBuf_latchRes (skipField_frame tag s) h
  | time => exact reaches_readingBuf_latchRes (skipField_frame tag s) h
  | unit => exact reaches_readingBuf_latchRes (byteField_frame tag s) h
  | scaler => exact reaches_readingBuf_latchRes (byteField_frame tag s) h
  | value => exact reaches_readingBuf_latchRes (valueField_frame tag s) h

theorem reaches_execBufAppend {b : Byte} {limit : Nat} {s t : State}
    (h : execBufAppend b limit s = .next t) : Reaches s t := by
  rw [execBufAppend] at h
  split_ifs at h with hlimit
  have happend := reaches_bufAppend s b (Nat.not_lt.1 hlimit)
  rcases hr : s.bufAppend b limit with ⟨_ | _, u⟩ <;> rw [hr] at h happend <;> cases h
  · exact happend.tail (.latch u .overflow)
  · exact happend.tail (.latch u .done)

theorem reaches_execCrcSpan {lo hi : Nat} {s t : State} (h : execCrcSpan lo hi s = .next t) :
    Reaches s t := by
  cases eq_of_readingBuf_eq_next (eq_of_ite_refused_eq_next h)
  exact (reaches_crcSpan s lo hi).tail (.latch _ _)

theorem reaches_execCrcVerify {s t : State} (h : execCrcVerify s = .next t) : Reaches s t := by
  rw [execCrcVerify] at h
  split_ifs at h
  cases h
  exact (reaches_crcSpan s 0 (s.len - 2)).tail (.latch _ _)

/-! ### Every operation -/

/-- Every operation that completes is a sequence of elementary updates. -/
theorem reaches_exec {i : Instr} {s t : State} (h : exec i s = .next t) : Reaches s t := by
  cases i with
  | reset ss now =>
    cases h
    exact reaches_reset s now
  | tick ss now bs => exact reaches_tick h
  | rxAs b => exact reaches_rxAs (eq_of_inState_eq_next h).2
  | rxAb b =>
    cases (eq_of_inState_eq_next h).2
    exact reaches_rxAb s b
  | rxRt b =>
    cases (eq_of_inState_eq_next h).2
    exact reaches_rxRt s b
  | rxDe b => cases h
  | decode => exact reaches_decodeFrame (eq_of_inState_eq_next h).2
  | selNone ss =>
    cases h
    exact .refl
  | enterAs =>
    cases h
    exact reaches_enterAs s
  | tmoChk =>
    cases h
    exact reaches_tmoChk s
  | bufReset =>
    cases h
    exact .single (.rewind s)
  | bufAppend b limit => exact reaches_execBufAppend h
  | bufSlice lo hi =>
    cases eq_of_readingBuf_eq_next (eq_of_ite_refused_eq_next h)
    exact .single (.latch s _)
  | crcByte b =>
    cases h
    exact .single (.scratch s _ s.cur s.acc s.tl)
  | crcSpan lo hi => exact reaches_execCrcSpan h
  | crcVerify => exact reaches_execCrcVerify h
  | mdFind i =>
    cases eq_of_readingBuf_eq_next (eq_of_ite_refused_eq_next h)
    exact .single (.latch s _)
  | rd k =>
    refine reaches_readingBuf_latchRes (r := (s.rd k, s)) ⟨.refl s, ?_⟩ h
    by_cases hk : k < s.len
    · rw [s.rd_ok hk]
      trivial
    · rw [s.rd_fail (Nat.not_lt.1 hk)]
      exact .inr rfl
  | tlvTag => exact reaches_readingBuf_latchRes (atCursor_frame checkTag_frame s) h
  | tlvSkip => exact reaches_readingBuf_latchRes (atCursor_frame skipField_frame s) h
  | tlvU8 => exact reaches_readingBuf_latchRes (atCursor_frame byteField_frame s) h
  | tlvS8 => exact reaches_readingBuf_latchRes (atCursor_frame byteField_frame s) h
  | tlvVal => exact reaches_readingBuf_latchRes (atCursor_frame valueField_frame s) h
  | mdDecode i =>
    cases eq_of_readingBuf_eq_next (eq_of_ite_refused_eq_next h)
    exact reaches_mdDecode s i
  | mdAll =>
    cases eq_of_readingBuf_eq_next h
    exact reaches_mdAll s
  | pubScale rv sc =>
    cases h
    exact .single (.latch s _)
  | pubWrite i =>
    cases eq_of_ite_refused_eq_next h
    exact reaches_pubWrite s i
  | pubAll =>
    cases h
    exact reaches_pubAll s
  | tlvExt f t l => exact reaches_tagged h
  | tlvZero f t => exact reaches_tagged h
  | tlvSigned l => exact reaches_tagged h
  | tlvUnsignedT0 l => exact reaches_tagged h
  | tlvUnsignedT1 l => exact reaches_tagged h
  | tlvUnsignedT2 l => exact reaches_tagged h
  | tlvUnsignedT3 l => exact reaches_tagged h
  | tlvUnsignedT4 l => exact reaches_tagged h
  | tlvUnsignedT6 l => exact reaches_tagged h
  | tlvUnsignedT7 l => exact reaches_tagged h
  | tlvAny f t l => exact reaches_tagged h
  | startMark => exact reaches_deliver h
  | endMark => exact reaches_deliver h
  | trailer fill lo hi => exact reaches_deliver h

/-! ### The configuration and the bookkeeping (R36, R79) -/

/-- What no operation writes. -/
def SameEnvironment (s t : State) : Prop :=
  t.cfg = s.cfg ∧ t.rest = s.rest ∧ t.pend = s.pend ∧ t.port = s.port

theorem Update.sameEnvironment {s t : State} (h : Update s t) : SameEnvironment s t := by
  cases h <;> exact ⟨rfl, rfl, rfl, rfl⟩

theorem Reaches.sameEnvironment {s t : State} (h : Reaches s t) : SameEnvironment s t := by
  induction h with
  | refl => exact ⟨rfl, rfl, rfl, rfl⟩
  | tail _ hupd ih =>
    obtain ⟨hcfg, hrest, hpend, hport⟩ := ih
    obtain ⟨hcfg', hrest', hpend', hport'⟩ := hupd.sameEnvironment
    exact ⟨hcfg'.trans hcfg, hrest'.trans hrest, hpend'.trans hpend, hport'.trans hport⟩

/-- Settles O59: no elementary update writes the configuration or the bookkeeping. -/
theorem configurationNeverChanges : Obligations.ConfigurationNeverChanges :=
  fun _ _ _ h => Reaches.sameEnvironment (reaches_exec h)

/-! ### The slots are the effect of the emitted writes (R16, R76) -/

theorem applyWrites_append (es fs : List Output) (slots : List SlotWord) :
    applyWrites slots (es ++ fs) = applyWrites (applyWrites slots es) fs := by
  induction es generalizing slots with
  | nil => rfl
  | cons e es ih =>
    cases e with
    | slotwr i v => exact ih (slots.set i v)
    | report code idx => exact ih slots

/-- The events emitted on the way from one state to another, with their effect on the slots. -/
def Emits (s t : State) : Prop :=
  ∃ es, t.out = s.out ++ es ∧ t.slots = applyWrites s.slots es

theorem Emits.refl (s : State) : Emits s s := ⟨[], (List.append_nil _).symm, rfl⟩

theorem Emits.trans {s t u : State} (h : Emits s t) (h' : Emits t u) : Emits s u := by
  obtain ⟨es, hout, hslots⟩ := h
  obtain ⟨fs, hout', hslots'⟩ := h'
  exact ⟨es ++ fs, by rw [hout', hout, List.append_assoc],
    by rw [hslots', hslots, applyWrites_append]⟩

/-- Only a report and a slot write emit, and only a slot write changes a slot. -/
theorem Update.emits {s t : State} (h : Update s t) : Emits s t := by
  cases h with
  | report code idx => exact ⟨[.report code idx], rfl, rfl⟩
  | slotWrite i v _ => exact ⟨[.slotwr i v], rfl, rfl⟩
  | latch | scratch | store | rewind | framing | sampleTime | markTime | decoded | clearDecoded =>
    exact ⟨[], (List.append_nil _).symm, rfl⟩

theorem Reaches.emits {s t : State} (h : Reaches s t) : Emits s t := by
  induction h with
  | refl => exact .refl s
  | tail _ hupd ih => exact ih.trans hupd.emits

/-- Settles O60: each elementary update emits exactly the writes it makes. -/
theorem slotsAreTheEffectOfTheEmittedWrites : Obligations.SlotsAreTheEffectOfTheEmittedWrites :=
  fun _ _ _ h => Reaches.emits (reaches_exec h)

/-! ### The sane form of the state (R43) -/

/-- Each update keeps to the bounds of what it writes and leaves the other bounds alone. -/
theorem Update.sane {s t : State} (h : Update s t) (hs : s.Sane) : t.Sane := by
  obtain ⟨hcfg, hbuf, hbelow, hlen, hdec, hslots, htlast, htnow, hwidth⟩ := hs
  cases h with
  | store b n hroom hn =>
    exact ⟨hcfg, Memory.wf_write hbuf _ b, Memory.below_write hbelow hroom b, hn, hdec, hslots,
      htlast, htnow, hwidth⟩
  | rewind =>
    exact ⟨hcfg, hbuf, hbelow, Nat.zero_le _, hdec, hslots, htlast, htnow, hwidth⟩
  | sampleTime now =>
    exact ⟨hcfg, hbuf, hbelow, hlen, hdec, hslots, htlast, timeOf_lt _ now, hwidth⟩
  | markTime => exact ⟨hcfg, hbuf, hbelow, hlen, hdec, hslots, htnow, htnow, hwidth⟩
  | decoded i v =>
    exact ⟨hcfg, hbuf, hbelow, hlen, List.length_set.trans hdec, hslots, htlast, htnow, hwidth⟩
  | clearDecoded =>
    exact ⟨hcfg, hbuf, hbelow, hlen, List.length_replicate, hslots, htlast, htnow, hwidth⟩
  | slotWrite i v hv =>
    refine ⟨hcfg, hbuf, hbelow, hlen, hdec, List.length_set.trans hslots, htlast, htnow,
      fun w hw => ?_⟩
    rcases List.mem_or_eq_of_mem_set hw with hw | rfl
    · exact hwidth w hw
    · exact hv
  | latch | scratch | framing | report =>
    exact ⟨hcfg, hbuf, hbelow, hlen, hdec, hslots, htlast, htnow, hwidth⟩

theorem Reaches.sane {s t : State} (h : Reaches s t) (hs : s.Sane) : t.Sane := by
  induction h with
  | refl => exact hs
  | tail _ hupd ih => exact hupd.sane ih

/-- Fetching the next word takes the port, a byte or an event, and samples a time within its width. -/
theorem fetch_sane {s : State} (h : s.Sane) : s.fetch.2.Sane := by
  have htake : ∀ (e : Event) (t : State), t.Sane → (State.take e t).Sane := fun e t ht => by
    cases e with
    | reset now => exact ht
    | tick now bs => exact ht
    | tickSteps now bs => exact (Update.sampleTime t now).sane ht
  rw [State.fetch]
  split
  · exact h
  · split_ifs
    · exact h
    · split
      · exact h
      · exact htake _ _ h
      · exact h

/-- A step that completes has run the operation its word decodes to. -/
theorem exec_of_step {s t : State} (h : step s = .next t) :
    ∃ i, decode s.fetch.1 = .instr i ∧ exec i s.fetch.2 = .next t := by
  rw [step] at h
  split_ifs at h
  cases hd : decode s.fetch.1 with
  | instr i =>
    rw [hd] at h
    exact ⟨i, rfl, h⟩
  | reject e =>
    rw [hd] at h
    cases h

/-- Settles O51: the fetch keeps the sane form, and so does each elementary update of the operation
that the step runs. -/
theorem everyStepKeepsTheStateSane : Obligations.EveryStepKeepsTheStateSane := by
  intro s t hs h
  obtain ⟨i, -, hexec⟩ := exec_of_step h
  exact Reaches.sane (reaches_exec hexec) (fetch_sane hs)

end Sys2Proof.Proofs.Updates
end

section
/-! PROOFS. The encodings (spec/30_encoding.md): decoding an encoded operation, and encoding a decoded
one. Each operand form has one lemma per direction, and each format is put together from them. -/

namespace Sys2Proof.Proofs.Encoding

open Sys2Proof Sys2Proof.Machine

/-! ### Operand forms, encoded and then decoded -/

theorem fits16_iff (n : Nat) : fits16 n = true ↔ n < 256 ^ 2 := decide_eq_true_iff

theorem fits64_iff (n : Nat) : fits64 n = true ↔ n < 256 ^ 8 := decide_eq_true_iff

theorem leNat_leBytes_fits16 {n : Nat} (h : fits16 n = true) : leNat (leBytes 2 n) = n :=
  leNat_leBytes ((fits16_iff n).1 h)

theorem opNat_leBytes (f : Nat → Instr) {n : Nat} (h : fits16 n = true) :
    opNat f (leBytes 2 n) = .instr (f n) := by
  rw [opNat, if_pos (leBytes_length 2 n), leNat_leBytes_fits16 h]

theorem opByteNat_leBytes (f : Byte → Nat → Instr) (b : Byte) {n : Nat} (h : fits16 n = true) :
    opByteNat f (b :: leBytes 2 n) = .instr (f b n) := by
  rw [opByteNat, if_pos (leBytes_length 2 n), leNat_leBytes_fits16 h]

theorem opSpan_leBytes (f : Nat → Nat → Instr) {lo hi : Nat} (hle : lo ≤ hi)
    (h : fits16 hi = true) : opSpan f (leBytes 2 lo ++ leBytes 2 hi) = .instr (f lo hi) := by
  have hlo : fits16 lo = true := (fits16_iff lo).2 (hle.trans_lt ((fits16_iff hi).1 h))
  have hlength : (leBytes 2 lo ++ leBytes 2 hi).length = 4 := by
    rw [List.length_append, leBytes_length, leBytes_length]
  rw [opSpan, if_pos hlength, List.take_left' (leBytes_length 2 lo),
    List.drop_left' (leBytes_length 2 lo), leNat_leBytes_fits16 hlo, leNat_leBytes_fits16 h,
    if_pos hle]

theorem opScale_leBytes (f : AccWord → Byte → Instr) (rv : AccWord) (sc : Byte) :
    opScale f (leBytes 8 rv.toNat ++ [sc]) = .instr (f rv sc) := by
  have hlength : (leBytes 8 rv.toNat ++ [sc]).length = 9 := by
    rw [List.length_append, leBytes_length, List.length_singleton]
  have hsc : leNat [sc] = sc.toNat := by rw [leNat, leNat, Nat.mul_zero, Nat.add_zero]
  have hrv : rv.toNat < 256 ^ 8 := rv.isLt
  rw [opScale, if_pos hlength, List.take_left' (leBytes_length 8 _),
    List.drop_left' (leBytes_length 8 _), leNat_leBytes hrv, hsc, BitVec.ofNat_toNat,
    BitVec.ofNat_toNat, BitVec.setWidth_eq, BitVec.setWidth_eq]

/-! ### Tag bytes, encoded and then decoded (R106) -/

theorem decode_encodeTag (f : Field) (x : Bool) (t : BitVec 3) (l : BitVec 4) :
    decode (encodeTag f x t l) = .instr (decodeTag f (tagByte x t l)) := by
  rw [encodeTag, decode, decodeTagWord, Field.ofCode_code]

theorem decodeTag_ext (f : Field) (t : BitVec 3) (l : BitVec 4) :
    decodeTag f (tagByte true t l) = .tlvExt f t l := by
  rw [decodeTag, tagX_tagByte, if_pos rfl, tagT_tagByte, tagL_tagByte]

theorem decodeTag_zero (f : Field) (t : BitVec 3) :
    decodeTag f (tagByte false t 0) = .tlvZero f t := by
  rw [decodeTag, tagX_tagByte, if_neg Bool.false_ne_true, tagL_tagByte, if_pos rfl, tagT_tagByte]

theorem decodeTag_value (t : BitVec 3) {l : BitVec 4} (hl : l ≠ 0) :
    decodeTag .value (tagByte false t l) = valueRow t l := by
  rw [decodeTag, tagX_tagByte, if_neg Bool.false_ne_true, tagL_tagByte, if_neg hl, if_pos rfl,
    tagT_tagByte]

theorem decodeTag_any {f : Field} (hf : f ≠ .value) (t : BitVec 3) {l : BitVec 4} (hl : l ≠ 0) :
    decodeTag f (tagByte false t l) = .tlvAny f t l := by
  rw [decodeTag, tagX_tagByte, if_neg Bool.false_ne_true, tagL_tagByte, if_neg hl, if_neg hf,
    tagT_tagByte]

/-- A Value row's word decodes to the row of its type code. -/
theorem decode_valueTag (t : BitVec 3) {l : BitVec 4} (hl : decide (l ≠ 0) = true) :
    decode (encodeTag .value false t l) = .instr (valueRow t l) := by
  rw [decode_encodeTag, decodeTag_value t (of_decide_eq_true hl)]

/-- Settles O1: the words of the events and of the input bytes decode as Laws/Encoding.lean says, and
each other row by the lemma of its operand form. -/
theorem encodeThenDecodeGivesTheOperation : Obligations.EncodeThenDecodeGivesTheOperation := by
  intro i hwf
  cases i with
  | reset ss now =>
    exact (decode_resetEvent ss now).trans (by rw [Nat.mod_eq_of_lt ((fits64_iff now).1 hwf)])
  | tick ss now bs =>
    exact (decode_tickEvent ss now bs).trans (by rw [Nat.mod_eq_of_lt ((fits64_iff now).1 hwf)])
  | selNone ss =>
    exact (decode_internalWord ss).trans (by rw [if_neg (of_decide_eq_true hwf)])
  | rxAs b => exact decode_byteWord .awaitStart b
  | rxAb b => exact decode_byteWord .accumulateBody b
  | rxRt b => exact decode_byteWord .readTrailer b
  | rxDe b => exact decode_byteWord .decode b
  | bufAppend b limit => exact opByteNat_leBytes .bufAppend b hwf
  | bufSlice lo hi =>
    obtain ⟨hle, hhi⟩ := Bool.and_eq_true_iff.1 hwf
    exact opSpan_leBytes .bufSlice (of_decide_eq_true hle) hhi
  | crcSpan lo hi =>
    obtain ⟨hle, hhi⟩ := Bool.and_eq_true_iff.1 hwf
    exact opSpan_leBytes .crcSpan (of_decide_eq_true hle) hhi
  | mdFind i => exact opNat_leBytes .mdFind hwf
  | rd k => exact opNat_leBytes .rd hwf
  | mdDecode i => exact opNat_leBytes .mdDecode hwf
  | pubWrite i => exact opNat_leBytes .pubWrite hwf
  | pubScale rv sc => exact opScale_leBytes .pubScale rv sc
  | tlvExt f t l => exact (decode_encodeTag f true t l).trans (by rw [decodeTag_ext])
  | tlvZero f t => exact (decode_encodeTag f false t 0).trans (by rw [decodeTag_zero])
  | tlvSigned l => exact decode_valueTag 5 hwf
  | tlvUnsignedT0 l => exact decode_valueTag 0 hwf
  | tlvUnsignedT1 l => exact decode_valueTag 1 hwf
  | tlvUnsignedT2 l => exact decode_valueTag 2 hwf
  | tlvUnsignedT3 l => exact decode_valueTag 3 hwf
  | tlvUnsignedT4 l => exact decode_valueTag 4 hwf
  | tlvUnsignedT6 l => exact decode_valueTag 6 hwf
  | tlvUnsignedT7 l => exact decode_valueTag 7 hwf
  | tlvAny f t l =>
    obtain ⟨hf, hl⟩ := Bool.and_eq_true_iff.1 hwf
    exact (decode_encodeTag f false t l).trans
      (by rw [decodeTag_any (of_decide_eq_true hf) t (of_decide_eq_true hl)])
  | decode | enterAs | tmoChk | bufReset | crcByte | crcVerify | tlvTag | tlvSkip | tlvU8 | tlvS8
  | tlvVal | mdAll | pubAll | startMark | endMark | trailer => rfl

/-! ### Operand forms, decoded and then encoded -/

/-- The operation is well-formed and the word is the one it is written as. -/
def Written (i : Instr) (w : OpWord) : Prop := i.wf = true ∧ encode i = w

/-- Operand bytes are the encoding of the number they make, which fits them. -/
theorem leBytes_of_length {n : Nat} {ops : List Byte} (h : ops.length = n) :
    leBytes n (leNat ops) = ops ∧ leNat ops < 256 ^ n := by
  subst h
  exact ⟨leBytes_leNat ops, leNat_lt ops⟩

theorem written_of_opNone {i j : Instr} {fmt : Format} {c : Byte} {ops : List Byte}
    (h : opNone j ops = .instr i) (hj : Written j ⟨fmt, [c]⟩) : Written i ⟨fmt, c :: ops⟩ := by
  rw [opNone] at h
  split_ifs at h with hnil
  cases h
  rwa [List.length_eq_zero_iff.1 hnil]

theorem written_of_opByte {f : Byte → Instr} {i : Instr} {fmt : Format} {c : Byte}
    {ops : List Byte} (h : opByte f ops = .instr i)
    (hf : ∀ b, Written (f b) ⟨fmt, [c, b]⟩) : Written i ⟨fmt, c :: ops⟩ := by
  rw [opByte.eq_def] at h
  split at h <;> cases h
  exact hf _

theorem written_of_opNat {f : Nat → Instr} {i : Instr} {c : Byte} {ops : List Byte}
    (h : opNat f ops = .instr i)
    (hf : ∀ n, fits16 n = true → Written (f n) (encodeUop c (leBytes 2 n))) :
    Written i ⟨.uop, c :: ops⟩ := by
  rw [opNat] at h
  split_ifs at h with hlength
  cases h
  obtain ⟨hbytes, hlt⟩ := leBytes_of_length hlength
  have hw := hf (leNat ops) ((fits16_iff _).2 hlt)
  rwa [hbytes] at hw

theorem written_of_opByteNat {f : Byte → Nat → Instr} {i : Instr} {c : Byte} {ops : List Byte}
    (h : opByteNat f ops = .instr i)
    (hf : ∀ b n, fits16 n = true → Written (f b n) (encodeUop c (b :: leBytes 2 n))) :
    Written i ⟨.uop, c :: ops⟩ := by
  cases ops with
  | nil => cases h
  | cons b ops =>
    rw [opByteNat] at h
    split_ifs at h with hlength
    cases h
    obtain ⟨hbytes, hlt⟩ := leBytes_of_length hlength
    have hw := hf b (leNat ops) ((fits16_iff _).2 hlt)
    rwa [hbytes] at hw

theorem written_of_opSpan {f : Nat → Nat → Instr} {i : Instr} {c : Byte} {ops : List Byte}
    (h : opSpan f ops = .instr i)
    (hf : ∀ lo hi, (decide (lo ≤ hi) && fits16 hi) = true →
      Written (f lo hi) (encodeUop c (leBytes 2 lo ++ leBytes 2 hi))) :
    Written i ⟨.uop, c :: ops⟩ := by
  rw [opSpan] at h
  split_ifs at h with hlength hle
  cases h
  have htake : (ops.take 2).length = 2 := by rw [List.length_take, hlength]; rfl
  have hdrop : (ops.drop 2).length = 2 := by rw [List.length_drop, hlength]
  obtain ⟨hlo, -⟩ := leBytes_of_length htake
  obtain ⟨hhi, hlt⟩ := leBytes_of_length hdrop
  have hw := hf _ _ (Bool.and_eq_true_iff.2 ⟨decide_eq_true hle, (fits16_iff _).2 hlt⟩)
  rwa [hlo, hhi, List.take_append_drop] at hw

theorem written_of_opScale {f : AccWord → Byte → Instr} {i : Instr} {c : Byte} {ops : List Byte}
    (h : opScale f ops = .instr i)
    (hf : ∀ rv sc, Written (f rv sc) (encodeUop c (leBytes 8 rv.toNat ++ [sc]))) :
    Written i ⟨.uop, c :: ops⟩ := by
  rw [opScale] at h
  split_ifs at h with hlength
  cases h
  have htake : (ops.take 8).length = 8 := by rw [List.length_take, hlength]; rfl
  have hdrop : (ops.drop 8).length = 1 := by rw [List.length_drop, hlength]
  obtain ⟨hrv, hlt⟩ := leBytes_of_length htake
  obtain ⟨hsc, -⟩ := leBytes_of_length hdrop
  have hw := hf (BitVec.ofNat 64 (leNat (ops.take 8))) (BitVec.ofNat 8 (leNat (ops.drop 8)))
  have hone : [BitVec.ofNat 8 (leNat (ops.drop 8))] = ops.drop 8 := hsc
  have hwidth : leNat (ops.take 8) < 2 ^ 64 := hlt
  rwa [BitVec.toNat_ofNat, Nat.mod_eq_of_lt hwidth, hrv, hone, List.take_append_drop] at hw

/-! ### Each format, decoded and then encoded -/

theorem written_of_decodeSel {c : Byte} {ops : List Byte} {i : Instr}
    (h : decodeSel c ops = .instr i) : Written i ⟨.sel4, c :: ops⟩ := by
  by_cases hwide : 16 ≤ c.toNat
  · rw [decodeSel, if_pos hwide] at h
    cases h
  rw [decodeSel, if_neg hwide] at h
  have hev : (c.extractLsb' 2 2).toNat < 4 := (c.extractLsb' 2 2).isLt
  have hc := selByte_of_parts hwide
  revert h hev hc
  generalize (c.extractLsb' 2 2).toNat = ev
  generalize FrameState.ofCode (c.extractLsb' 0 2) = ss
  rintro h hev rfl
  match ev, hev with
  | 0, _ => cases ss <;> exact written_of_opByte h fun _ => ⟨rfl, rfl⟩
  | 1, _ =>
    simp only at h
    split_ifs at h with hlength
    cases h
    have htake : (ops.take 8).length = 8 := by rw [List.length_take, Nat.min_eq_left hlength]
    obtain ⟨hbytes, hlt⟩ := leBytes_of_length htake
    refine ⟨(fits64_iff _).2 hlt, ?_⟩
    rw [encode, hbytes, List.take_append_drop]
    rfl
  | 2, _ =>
    simp only at h
    split_ifs at h with hlength
    cases h
    obtain ⟨hbytes, hlt⟩ := leBytes_of_length hlength
    refine ⟨(fits64_iff _).2 hlt, ?_⟩
    rw [encode, hbytes]
    rfl
  | 3, _ => cases ss <;> exact written_of_opNone h ⟨rfl, rfl⟩

theorem written_of_decodeUop {c : Byte} {ops : List Byte} {i : Instr}
    (h : decodeUop c ops = .instr i) : Written i ⟨.uop, c :: ops⟩ := by
  obtain ⟨n, hn, rfl⟩ : ∃ n, n < 256 ∧ c = BitVec.ofNat 8 n :=
    ⟨c.toNat, c.isLt, by rw [BitVec.ofNat_toNat, BitVec.setWidth_eq]⟩
  rw [decodeUop.eq_def, BitVec.toNat_ofNat, Nat.mod_eq_of_lt hn] at h
  match n with
  | 0 | 1 | 2 | 7 | 10 | 11 | 12 | 13 | 14 | 16 | 19 => exact written_of_opNone h ⟨rfl, rfl⟩
  | 3 => exact written_of_opByteNat h fun _ _ hfits => ⟨hfits, rfl⟩
  | 4 | 6 => exact written_of_opSpan h fun _ _ hfits => ⟨hfits, rfl⟩
  | 5 => exact written_of_opByte h fun _ => ⟨rfl, rfl⟩
  | 8 | 9 | 15 | 18 => exact written_of_opNat h fun _ hfits => ⟨hfits, rfl⟩
  | 17 => exact written_of_opScale h fun _ _ => ⟨rfl, rfl⟩
  | n + 20 => cases h

theorem written_valueRow (t : BitVec 3) {l : BitVec 4} (hl : l ≠ 0) :
    Written (valueRow t l) (encodeTag .value false t l) := by
  revert t l
  unfold Written
  decide

/-- Every tag byte in every field is the word of the row it decodes to (R106). -/
theorem written_decodeTag (f : Field) (tag : Byte) :
    Written (decodeTag f tag) (encodeTag f (tagX tag) (tagT tag) (tagL tag)) := by
  rw [decodeTag]
  split_ifs with hx hl hf
  · rw [hx]
    exact ⟨rfl, rfl⟩
  · rw [Bool.eq_false_of_not_eq_true hx, hl]
    exact ⟨rfl, rfl⟩
  · rw [Bool.eq_false_of_not_eq_true hx, hf]
    exact written_valueRow (tagT tag) hl
  · rw [Bool.eq_false_of_not_eq_true hx]
    exact ⟨Bool.and_eq_true_iff.2 ⟨decide_eq_true hf, decide_eq_true hl⟩, rfl⟩

theorem written_of_decodeTagWord {bytes : List Byte} {i : Instr}
    (h : decodeTagWord bytes = .instr i) : Written i ⟨.tag8, bytes⟩ := by
  rw [decodeTagWord.eq_def] at h
  split at h
  next tag c =>
    cases hf : Field.ofCode c with
    | none =>
      rw [hf] at h
      cases h
    | some f =>
      rw [hf] at h
      cases h
      have hw := written_decodeTag f tag
      rwa [encodeTag, tagByte_parts, Field.code_of_ofCode hf] at hw
  next => cases h

/-- Settles O2: by the format, each from the lemmas of its operand forms. -/
theorem decodedWordIsTheEncodingOfItsOperation :
    Obligations.DecodedWordIsTheEncodingOfItsOperation := by
  rintro ⟨fmt, bytes⟩ i h
  rw [decode.eq_def] at h
  cases fmt with
  | sel4 =>
    cases bytes with
    | nil => cases h
    | cons c ops => exact written_of_decodeSel h
  | uop =>
    cases bytes with
    | nil => cases h
    | cons c ops => exact written_of_decodeUop h
  | tag8 => exact written_of_decodeTagWord h
  | mark =>
    simp only at h
    split_ifs at h with hstart hend
    · cases h
      exact ⟨rfl, by rw [hstart]; rfl⟩
    · cases h
      exact ⟨rfl, by rw [hend]; rfl⟩
  | trailer =>
    simp only at h
    split at h <;> cases h
    exact ⟨rfl, rfl⟩

/-- Settles O3: the decoder evaluates on each written-out word. -/
theorem writtenOutWordsDecodeToTheirRows : Obligations.WrittenOutWordsDecodeToTheirRows := by
  unfold Obligations.WrittenOutWordsDecodeToTheirRows
  decide

end Sys2Proof.Proofs.Encoding
end

section
/-! PROOFS. The checksum operations (spec/41_checksum.md): the table form of CRC.BYTE, CRC.SPAN in the
parameter form, and what CRC.VERIFY tells of the two stored bytes. -/

namespace Sys2Proof.Proofs.ChecksumOps

open Sys2Proof Sys2Proof.Machine
open Sys2Proof.Proofs.Checksum

/-! ### The dispatch of the operations -/

theorem exec_crcByte (b : Byte) (s : State) : exec (.crcByte b) s = execCrcByte b s := rfl

theorem exec_crcSpan (lo hi : Nat) (s : State) : exec (.crcSpan lo hi) s = execCrcSpan lo hi s := rfl

theorem exec_crcVerify (s : State) : exec .crcVerify s = execCrcVerify s := rfl

/-! ### The register is linear (R131) -/

/-- A shift as an exclusive or: the polynomial, where the low bit is set. -/
theorem crcShift_eq (c : CrcWord) :
    crcShift c = (c >>> 1) ^^^ (if c.getLsbD 0 then crcPoly else 0) := by
  rw [crcShift]
  split_ifs
  · rfl
  · exact BitVec.xor_zero.symm

theorem crcShift_xor (c d : CrcWord) : crcShift (c ^^^ d) = crcShift c ^^^ crcShift d := by
  have hpoly : ∀ x y : Bool, (if (x ^^ y) = true then crcPoly else 0) =
      (if x = true then crcPoly else 0) ^^^ (if y = true then crcPoly else 0) := by decide
  simp only [crcShift_eq, BitVec.getLsbD_xor, hpoly, BitVec.ushiftRight_xor_distrib]
  ac_rfl

theorem crcShifts_xor (n : Nat) (c d : CrcWord) :
    crcShifts n (c ^^^ d) = crcShifts n c ^^^ crcShifts n d := by
  induction n generalizing c d with
  | zero => rfl
  | succ n ih => rw [crcShifts, crcShifts, crcShifts, crcShift_xor, ih]

/-! ### The table form -/

/-- The register's top half, as a byte. -/
def topByte (c : CrcWord) : Byte := (c >>> 8).setWidth 8

/-- Eight shifts move a byte down from the top half: none of its bits reaches bit 0 before. -/
theorem crcShifts_topHalf (y : Byte) : crcShifts 8 (y.setWidth 16 <<< 8) = y.setWidth 16 := by
  revert y
  decide

/-- A register is made of its two halves. -/
theorem halves_xor (c : CrcWord) : (c &&& (0xFF : CrcWord)) ^^^ ((topByte c).setWidth 16 <<< 8) = c := by
  refine BitVec.eq_of_getLsbD_eq fun i hi => ?_
  interval_cases i <;> simp [topByte]

/-- The input byte changes the low half only. -/
theorem topByte_xor_byte (c : CrcWord) (b : Byte) :
    (topByte (c ^^^ b.setWidth 16)).setWidth 16 = c >>> 8 := by
  refine BitVec.eq_of_getLsbD_eq fun i hi => ?_
  interval_cases i <;> simp [topByte]

/-- CRC.BYTE from a register on byte 0 is its eight shifts. -/
theorem crcByte_zero (c : CrcWord) : crcByte c 0 = crcShifts 8 c :=
  congrArg (crcShifts 8) BitVec.xor_zero

/-- The table form (R131): the low half goes through the table, the top half moves down. -/
theorem crcByte_table (c : CrcWord) (b : Byte) :
    crcByte c b = (c >>> 8) ^^^ crcByte ((c ^^^ b.setWidth 16) &&& (0xFF : CrcWord)) 0 := by
  have hhalves := congrArg (crcShifts 8) (halves_xor (c ^^^ b.setWidth 16))
  rw [crcShifts_xor, crcShifts_topHalf, topByte_xor_byte, BitVec.xor_comm] at hhalves
  rw [crcByte_zero, crcByte, hhalves]

/-- Settles O14: the table form of the register's update. -/
theorem crcByteEqualsTheTableForm : Obligations.CrcByteEqualsTheTableForm := by
  intro s b
  rw [exec_crcByte, execCrcByte, crcByte_table]

/-! ### CRC.SPAN -/

/-- Settles O15: the register is the bit reversal of the parameter form's at every byte
(`crcParam_eq_crcOf`), and the final exclusive or is the same. -/
theorem crcSpanEqualsTheParameterForm : Obligations.CrcSpanEqualsTheParameterForm := by
  intro s lo hi hspan hlen hcap
  rw [exec_crcSpan, execCrcSpan_eq s hspan hlen hcap, crcParam_eq_crcOf]
  exact ⟨_, rfl, rfl, rfl⟩

/-! ### CRC.VERIFY -/

/-- CRC.VERIFY completes where its two checksum bytes exist, with its result latched. -/
theorem ret_of_exec_crcVerify {s t : State} (hlen : 2 ≤ s.len) (hcap : s.len ≤ s.cfg.capacity)
    (h : exec .crcVerify s = .next t) : t.ret = .flag s.crcVerify.1 := by
  rw [exec_crcVerify, execCrcVerify_eq s hlen hcap] at h
  cases h
  rfl

/-- Settles O16: the comparison in the parameter form (`crcVerify_flag_iff`). -/
theorem crcVerifyComparesWithTheLittleEndianTrailer :
    Obligations.CrcVerifyComparesWithTheLittleEndianTrailer := by
  intro s hlen hcap
  have hflag := Bool.eq_iff_iff.2 ((crcVerify_flag_iff s).trans decide_eq_true_iff.symm)
  rw [exec_crcVerify, execCrcVerify_eq s hlen hcap, ← hflag]
  exact ⟨_, rfl, rfl⟩

/-- Two bytes make one stored checksum only. -/
theorem storedChecksum_inj {lo hi lo' hi' : Byte}
    (h : storedChecksum lo hi = storedChecksum lo' hi') : lo = lo' ∧ hi = hi' := by
  have hnat := congrArg BitVec.toNat h
  rw [storedChecksum_toNat, storedChecksum_toNat] at hnat
  have hlo := lo.isLt
  have hlo' := lo'.isLt
  exact ⟨BitVec.eq_of_toNat_eq (by omega), BitVec.eq_of_toNat_eq (by omega)⟩

theorem crcVerify_true_iff (s : State) : s.crcVerify.1 = true ↔
    crcOf (s.bufSlice 0 (s.len - 2)) =
      storedChecksum (s.buf.read (s.len - 2)) (s.buf.read (s.len - 1)) := by
  rw [s.crcVerify_flag, decide_eq_true_iff]

/-- Settles O17: the computed checksum covers the bytes that stay, so both buffers can verify only with
the same stored checksum, and that fixes both bytes. -/
theorem corruptedChecksumBytesFailVerification :
    Obligations.CorruptedChecksumBytesFailVerification := by
  intro s t m hlen hcap hexec hret hsame hdiff
  have hvalid : s.crcVerify.1 = true := by
    rw [ret_of_exec_crcVerify hlen hcap hexec] at hret
    exact OpResult.flag.inj hret
  have hslice : State.bufSlice { s with buf := m } 0 (s.len - 2) = s.bufSlice 0 (s.len - 2) :=
    State.bufSlice_congr fun k _ hk => hsame k hk
  have hinvalid : (State.crcVerify { s with buf := m }).1 = false := by
    refine Bool.eq_false_iff.2 fun hv => ?_
    have hm := (crcVerify_true_iff { s with buf := m }).1 hv
    obtain ⟨hlo, hhi⟩ := storedChecksum_inj
      ((hm.symm.trans (congrArg crcOf hslice)).trans ((crcVerify_true_iff s).1 hvalid))
    exact hdiff.elim (fun h => h hlo) (fun h => h hhi)
  refine ⟨_, execCrcVerify_eq { s with buf := m } hlen hcap, ?_⟩
  rw [State.latch_ret, hinvalid]

/-! ### The constant residue (V-C10)

After the checksummed bytes the register is the complement of the stored checksum, so each checksum
byte meets its own complement in the low half, and what is left depends on neither. -/

/-- The stored checksum in the register's operations. -/
theorem storedChecksum_eq_xor (lo hi : Byte) :
    storedChecksum lo hi = lo.setWidth 16 ^^^ (hi.setWidth 16 <<< 8) := by
  have hbit : ∀ i, (storedChecksum lo hi).getLsbD i =
      if i < 8 then lo.getLsbD i else hi.getLsbD (i - 8) := fun _ => BitVec.getLsbD_append
  refine BitVec.eq_of_getLsbD_eq fun i h => ?_
  rw [hbit]
  interval_cases i <;> simp

theorem lowHalf_storedChecksum (lo hi : Byte) :
    (storedChecksum lo hi ^^^ crcXorOut ^^^ lo.setWidth 16) &&& (0xFF : CrcWord) = (0xFF : CrcWord) := by
  refine BitVec.eq_of_getLsbD_eq fun i h => ?_
  interval_cases i <;> simp [storedChecksum_eq_xor, crcXorOut]

theorem topHalf_storedChecksum (lo hi : Byte) :
    (storedChecksum lo hi ^^^ crcXorOut) >>> 8 ^^^ hi.setWidth 16 = (0xFF : CrcWord) := by
  refine BitVec.eq_of_getLsbD_eq fun i h => ?_
  interval_cases i <;> simp [storedChecksum_eq_xor, crcXorOut]

/-- The register after the two stored bytes of a checksum. -/
theorem crcByte_storedChecksum (lo hi : Byte) :
    crcByte (crcByte (storedChecksum lo hi ^^^ crcXorOut) lo) hi ^^^ crcXorOut = 0x0F47 := by
  have hshift : ∀ c k : CrcWord, (c >>> 8 ^^^ k) >>> 8 = k >>> 8 := fun c k => by
    rw [BitVec.ushiftRight_xor_distrib, ← BitVec.shiftRight_add, BitVec.ushiftRight_eq_zero le_rfl,
      BitVec.zero_xor]
  rw [crcByte_table _ lo, lowHalf_storedChecksum, crcByte_table _ hi, hshift, BitVec.xor_assoc _ _
    (hi.setWidth 16), BitVec.xor_comm _ (hi.setWidth 16), ← BitVec.xor_assoc,
    topHalf_storedChecksum]
  decide

theorem crcRun_snoc (bs : List Byte) (b : Byte) : crcRun (bs ++ [b]) = crcByte (crcRun bs) b :=
  crcRun_append bs [b]

/-- Settles O18: the whole frame is the checksummed bytes and the two stored ones. -/
theorem wholeValidFrameHasTheConstantResidue : Obligations.WholeValidFrameHasTheConstantResidue := by
  intro s t hlen hcap hexec hret
  have hvalid : s.crcVerify.1 = true := by
    rw [ret_of_exec_crcVerify hlen hcap hexec] at hret
    exact OpResult.flag.inj hret
  have hrun := (crcOf_eq_iff _ _).1 ((crcVerify_true_iff s).1 hvalid)
  have hframe : s.bufSlice 0 s.len =
      s.bufSlice 0 (s.len - 2) ++ [s.buf.read (s.len - 2)] ++ [s.buf.read (s.len - 1)] := by
    rw [← s.bufSlice_succ (Nat.zero_le _), show s.len - 1 = s.len - 2 + 1 by omega,
      ← s.bufSlice_succ (Nat.zero_le _), show s.len - 2 + 1 + 1 = s.len by omega]
  refine ⟨_, execCrcSpan_eq s (Nat.zero_le _) le_rfl hcap, ?_⟩
  rw [State.latch_ret, State.crcSpan, crcOf, hframe, crcRun_snoc, crcRun_snoc, hrun,
    crcByte_storedChecksum]

end Sys2Proof.Proofs.ChecksumOps
end

section
/-! PROOFS. The field operations of the metric decoder (spec/43_metric_decoder.md sections 4 and 5) and
the rows of the tag byte (spec/30_encoding.md R106): a row and the operation of its field are the same
`State.takeField`, so each of its results is stated once. -/

namespace Sys2Proof.Proofs.Fields

open Sys2Proof Sys2Proof.Machine

/-! ### The value of a payload (R97, R98) -/

theorem toNat_foldl_accPush (bs : List Byte) (acc : AccWord) (n : Nat)
    (h : acc = BitVec.ofNat 64 n) :
    bs.foldl accPush acc = BitVec.ofNat 64 (bs.foldl (fun v b => v * 256 + b.toNat) n) := by
  induction bs generalizing acc n with
  | nil => exact h
  | cons b bs ih =>
    refine ih _ _ ?_
    rw [accPush, h]
    apply BitVec.eq_of_toNat_eq
    simp

/-- The accumulator holds the big-endian value modulo 2^64. -/
theorem foldl_accPush_eq (bs : List Byte) : bs.foldl accPush 0 = BitVec.ofNat 64 (beNat bs) :=
  toNat_foldl_accPush bs 0 0 rfl

theorem beNat_snoc (bs : List Byte) (b : Byte) : beNat (bs ++ [b]) = beNat bs * 256 + b.toNat := by
  rw [beNat, List.foldl_append]
  rfl

theorem beNat_lt (bs : List Byte) : beNat bs < 2 ^ (8 * bs.length) := by
  induction bs using List.reverseRecOn with
  | nil => exact Nat.one_pos
  | append_singleton bs b ih =>
    have hb := b.isLt
    rw [beNat_snoc, List.length_append, List.length_singleton, Nat.mul_add, Nat.pow_add]
    omega

/-- Sign extension from the payload's own width (R195). -/
theorem toInt_sextBytes {bs : List Byte} (h1 : 1 ≤ bs.length) (h7 : bs.length ≤ 7) :
    (sextBytes bs.length (BitVec.ofNat 64 (beNat bs))).toInt =
      if beNat bs < 2 ^ (8 * bs.length - 1) then (beNat bs : Int)
      else (beNat bs : Int) - 2 ^ (8 * bs.length) := by
  have hlow : ((BitVec.ofNat 64 (beNat bs)).setWidth (8 * bs.length)).toNat = beNat bs := by
    have hdvd : 2 ^ (8 * bs.length) ∣ 2 ^ 64 := Nat.pow_dvd_pow 2 (by omega)
    rw [BitVec.toNat_setWidth, BitVec.toNat_ofNat, Nat.mod_mod_of_dvd _ hdvd,
      Nat.mod_eq_of_lt (beNat_lt bs)]
  have hhalf : 2 * 2 ^ (8 * bs.length - 1) = 2 ^ (8 * bs.length) :=
    mul_pow_sub_one (by omega) 2
  rw [sextBytes, BitVec.toInt_signExtend_of_le (by omega), BitVec.toInt_eq_toNat_cond, hlow]
  push_cast
  exact if_congr (by omega) rfl rfl

/-- The raw value is what R98 gives for the tag byte and the payload. -/
theorem toInt_rawValueOf (signExt : Bool) (tag : Byte) (bs : List Byte) :
    (rawValueOf signExt (tagSigned tag) bs.length (BitVec.ofNat 64 (beNat bs))).toInt =
      valueOf signExt tag bs := by
  have hcond : (tagSigned tag && signExt && decide (1 ≤ bs.length) && decide (bs.length ≤ 7)) =
      true ↔ tagT tag = 5 ∧ signExt = true ∧ 1 ≤ bs.length ∧ bs.length ≤ 7 := by
    simp only [Bool.and_eq_true, decide_eq_true_eq, tagSigned_iff, and_assoc]
  rw [rawValueOf, valueOf]
  by_cases h : tagT tag = 5 ∧ signExt = true ∧ 1 ≤ bs.length ∧ bs.length ≤ 7
  · have ⟨_, _, h1, h7⟩ := h
    rw [if_pos (hcond.2 h), if_pos h, toInt_sextBytes h1 h7]
  · rw [if_neg (mt hcond.1 h), if_neg h]

/-! ### A field by its results -/

variable {s : State} {tag : Byte}

theorem takeField_bad (f : Field) (hbad : tagX tag = true ∨ tagL tag = 0) :
    s.takeField f tag = { s with tl := tag, ret := .fail .unsupportedFieldLength } := by
  cases f with
  | status | time => rw [State.takeField, skipField_bad s hbad]; rfl
  | unit | scaler => rw [State.takeField, byteField_bad s hbad]; rfl
  | value => rw [State.takeField, valueField_bad s hbad]; rfl

theorem takeField_skip {f : Field} (hf : f = .status ∨ f = .time) (hx : tagX tag = false)
    (hl : tagL tag ≠ 0) :
    s.takeField f tag = { s with tl := tag, cur := s.cur + (tagL tag).toNat, ret := .done } := by
  rcases hf with rfl | rfl <;> rw [State.takeField, skipField_good s hx hl] <;> rfl

theorem takeField_unit (hx : tagX tag = false) (hl : tagL tag ≠ 0) (hnext : s.cur + 1 < s.len) :
    s.takeField .unit tag =
      { s with
        tl := tag, cur := s.cur + (tagL tag).toNat, ret := .byte (s.buf.read (s.cur + 1)) } := by
  rw [State.takeField, byteField_good s hx hl hnext]
  rfl

theorem takeField_scaler (hx : tagX tag = false) (hl : tagL tag ≠ 0) (hnext : s.cur + 1 < s.len) :
    s.takeField .scaler tag =
      { s with
        tl := tag, cur := s.cur + (tagL tag).toNat,
        ret := .int (s.buf.read (s.cur + 1)).toInt } := by
  rw [State.takeField, byteField_good s hx hl hnext]
  rfl

theorem takeField_byte_short {f : Field} (hf : f = .unit ∨ f = .scaler) (hx : tagX tag = false)
    (hl : tagL tag ≠ 0) (hnext : s.len ≤ s.cur + 1) :
    s.takeField f tag = { s with tl := tag, ret := .fail .outOfRange } := by
  rcases hf with rfl | rfl <;> rw [State.takeField, byteField_short s hx hl hnext] <;> rfl

/-- The payload's length is the field's without its tag byte. -/
theorem bufSlice_payload_length (s : State) (tag : Byte) :
    (s.bufSlice (s.cur + 1) (s.cur + (tagL tag).toNat)).length = (tagL tag).toNat - 1 := by
  rw [State.bufSlice_length]
  omega

/-- The Value field's result and registers, with the payload's value in `acc`. -/
theorem valueField_eq (hx : tagX tag = false) (hl : tagL tag ≠ 0)
    (hend : s.cur + (tagL tag).toNat ≤ s.len) :
    ∃ rv : AccWord,
      rv.toInt =
        valueOf s.cfg.signExt tag (s.bufSlice (s.cur + 1) (s.cur + (tagL tag).toNat)) ∧
      valueField tag s = (.ok rv,
        { s with
          tl := tag, cur := s.cur + 1,
          acc := BitVec.ofNat 64
            (beNat (s.bufSlice (s.cur + 1) (s.cur + (tagL tag).toNat))) }) := by
  have hraw := toInt_rawValueOf s.cfg.signExt tag
    (s.bufSlice (s.cur + 1) (s.cur + (tagL tag).toNat))
  rw [bufSlice_payload_length] at hraw
  exact ⟨_, hraw, by rw [valueField_good s hx hl hend, foldl_accPush_eq]⟩

theorem takeField_value (hx : tagX tag = false) (hl : tagL tag ≠ 0)
    (hend : s.cur + (tagL tag).toNat ≤ s.len) :
    s.takeField .value tag =
      { s with
        tl := tag, cur := s.cur + 1,
        acc := BitVec.ofNat 64 (beNat (s.bufSlice (s.cur + 1) (s.cur + (tagL tag).toNat))),
        ret := .int (valueOf s.cfg.signExt tag
          (s.bufSlice (s.cur + 1) (s.cur + (tagL tag).toNat))) } := by
  obtain ⟨rv, hrv, heq⟩ := valueField_eq hx hl hend
  rw [State.takeField, heq, ← hrv]
  rfl

theorem takeField_value_short (hx : tagX tag = false) (hl : tagL tag ≠ 0) (hcur : s.cur < s.len)
    (hend : s.len < s.cur + (tagL tag).toNat) :
    ∃ acc, s.takeField .value tag =
      { s with tl := tag, cur := s.cur + 1, acc := acc, ret := .fail .outOfRange } := by
  obtain ⟨acc, heq⟩ := valueField_short s hx hl hcur hend
  exact ⟨acc, by rw [State.takeField, heq]; rfl⟩

/-! ### The operation and the rows of a field -/

/-- The operation of a field (R106). -/
def fieldOp : Field → Instr
  | .status => .tlvSkip
  | .time => .tlvSkip
  | .unit => .tlvU8
  | .scaler => .tlvS8
  | .value => .tlvVal

theorem exec_fieldOp_in (f : Field) (hcap : s.len ≤ s.cfg.capacity) (hcur : s.cur < s.len) :
    exec (fieldOp f) s = .next (s.takeField f (s.buf.read s.cur)) := by
  refine (?_ : exec (fieldOp f) s = s.readingBuf _).trans (s.readingBuf_next hcap _)
  cases f with
  | status | time => rw [State.takeField, ← atCursor_in s skipField hcur]; rfl
  | unit | scaler => rw [State.takeField, ← atCursor_in s byteField hcur]; rfl
  | value => rw [State.takeField, ← atCursor_in s valueField hcur]; rfl

theorem exec_fieldOp_out (f : Field) (hcap : s.len ≤ s.cfg.capacity) (hcur : s.len ≤ s.cur) :
    exec (fieldOp f) s = .next { s with ret := .fail .outOfRange } := by
  cases f with
  | status | time =>
    rw [fieldOp, exec, execTlvSkip, s.readingBuf_next hcap, atCursor_out s _ hcur]
    rfl
  | unit =>
    rw [fieldOp, exec, execTlvU8, s.readingBuf_next hcap, atCursor_out s _ hcur]
    rfl
  | scaler =>
    rw [fieldOp, exec, execTlvS8, s.readingBuf_next hcap, atCursor_out s _ hcur]
    rfl
  | value =>
    rw [fieldOp, exec, execTlvVal, s.readingBuf_next hcap, atCursor_out s _ hcur]
    rfl

theorem tagged_next (f : Field) (tag : Byte) (hcap : s.len ≤ s.cfg.capacity) :
    s.tagged f tag = .next (s.takeField f tag) := s.readingBuf_next hcap _

theorem exec_valueRow (t : BitVec 3) (l : BitVec 4) (s : State) :
    exec (valueRow t l) s = s.tagged .value (tagByte false t l) := by
  have hcodes : ∀ t : BitVec 3,
      t = 0 ∨ t = 1 ∨ t = 2 ∨ t = 3 ∨ t = 4 ∨ t = 5 ∨ t = 6 ∨ t = 7 := by decide
  rcases hcodes t with rfl | rfl | rfl | rfl | rfl | rfl | rfl | rfl <;> rfl

/-- The row that a tag byte decodes to takes the field with that tag byte. -/
theorem exec_decodeTag (f : Field) (tag : Byte) (s : State) :
    exec (decodeTag f tag) s = s.tagged f tag := by
  have hparts := tagByte_parts tag
  rw [decodeTag]
  split_ifs with hx hl hf
  · rw [hx] at hparts
    exact congrArg (s.tagged f) hparts
  · rw [Bool.eq_false_of_not_eq_true hx, hl] at hparts
    exact congrArg (s.tagged f) hparts
  · rw [Bool.eq_false_of_not_eq_true hx] at hparts
    rw [exec_valueRow, hparts, hf]
  · rw [Bool.eq_false_of_not_eq_true hx] at hparts
    exact congrArg (s.tagged f) hparts

/-! ### The statements -/

/-- Settles O32: the operation takes its field with the tag byte at the cursor. -/
theorem fieldOperationsPassTheFieldAndTakeTheByteAfterTheTag :
    Obligations.FieldOperationsPassTheFieldAndTakeTheByteAfterTheTag := by
  intro s hcap ⟨hcur, hx, hl⟩
  refine ⟨?_, fun hnext => ⟨?_, ?_⟩⟩
  · exact (exec_fieldOp_in .status hcap hcur).trans (by rw [takeField_skip (.inl rfl) hx hl]; rfl)
  · exact (exec_fieldOp_in .unit hcap hcur).trans (by rw [takeField_unit hx hl hnext]; rfl)
  · exact (exec_fieldOp_in .scaler hcap hcur).trans (by rw [takeField_scaler hx hl hnext]; rfl)

/-- The four field operations are those of the five fields. -/
theorem exists_fieldOp {op : Instr} (h : op ∈ [.tlvSkip, .tlvU8, .tlvS8, .tlvVal]) :
    ∃ f, fieldOp f = op ∧ (op ∈ [.tlvU8, .tlvS8] → f = .unit ∨ f = .scaler) := by
  simp only [List.mem_cons, List.not_mem_nil, or_false] at h
  rcases h with rfl | rfl | rfl | rfl
  · exact ⟨.status, rfl, by decide⟩
  · exact ⟨.unit, rfl, fun _ => .inl rfl⟩
  · exact ⟨.scaler, rfl, fun _ => .inr rfl⟩
  · exact ⟨.value, rfl, by decide⟩

/-- Settles O33: the failures of a field are the same for all five, but the byte after the tag. -/
theorem fieldOperationsFailOnBoundsOrTag : Obligations.FieldOperationsFailOnBoundsOrTag := by
  intro s op hop hcap
  obtain ⟨f, rfl, hbyte⟩ := exists_fieldOp hop
  refine ⟨exec_fieldOp_out f hcap, fun hcur hbad => ?_, fun ⟨hcur, hx, hl⟩ hnext hmem => ?_⟩
  · rw [exec_fieldOp_in f hcap hcur, takeField_bad f hbad]
  · rw [exec_fieldOp_in f hcap hcur, takeField_byte_short (hbyte hmem) hx hl hnext]

/-- Settles O34: the accumulated bytes are the big-endian value, and the raw value is R98's. -/
theorem tlvValTakesTheBigEndianPayload : Obligations.TlvValTakesTheBigEndianPayload := by
  intro s hcap ⟨hcur, hx, hl⟩
  have hexec : exec .tlvVal s = .next (s.takeField .value (s.buf.read s.cur)) :=
    exec_fieldOp_in .value hcap hcur
  rw [hexec]
  refine ⟨fun hend => ?_, fun hend => ?_⟩
  · rw [takeField_value hx hl hend]
    rfl
  · obtain ⟨acc, heq⟩ := takeField_value_short hx hl hcur hend
    rw [heq]
    exact ⟨_, rfl, rfl⟩

/-- Settles O44: both take the field with the tag byte at the cursor. -/
theorem tagRowAtTheCursorIsTheFieldOperation :
    Obligations.TagRowAtTheCursorIsTheFieldOperation := by
  intro s hcap hcur
  have hrow : ∀ f, exec (decodeTag f (s.buf.read s.cur)) s = exec (fieldOp f) s := fun f => by
    rw [exec_decodeTag, tagged_next f _ hcap, exec_fieldOp_in f hcap hcur]
  exact ⟨hrow .status, hrow .time, hrow .unit, hrow .scaler, hrow .value⟩

/-- Settles O45: a tag byte with `X` = 1 or `L` = 0 fails in every field. -/
theorem extendedAndZeroLengthTagsFailInEveryField :
    Obligations.ExtendedAndZeroLengthTagsFailInEveryField := by
  intro s f t l hcap
  exact ⟨(tagged_next f _ hcap).trans (by rw [takeField_bad f (.inl (tagX_tagByte true t l))]),
    (tagged_next f _ hcap).trans (by rw [takeField_bad f (.inr (tagL_tagByte false t 0))])⟩

/-- Settles O46: each row takes the Value field with its own type code in the tag byte. -/
theorem valueRowsTakeTheirPayload : Obligations.ValueRowsTakeTheirPayload := by
  intro s l row t hrow hl hcap
  have hexec : exec row s = .next (s.takeField .value (tagByte false t l)) := by
    rw [← tagged_next .value _ hcap]
    simp only [List.mem_cons, Prod.mk.injEq, List.not_mem_nil, or_false] at hrow
    rcases hrow with ⟨rfl, rfl⟩ | ⟨rfl, rfl⟩ | ⟨rfl, rfl⟩ | ⟨rfl, rfl⟩ | ⟨rfl, rfl⟩ |
      ⟨rfl, rfl⟩ | ⟨rfl, rfl⟩ | ⟨rfl, rfl⟩ <;> rfl
  have hx := tagX_tagByte false t l
  have htl := tagL_tagByte false t l
  have hne : tagL (tagByte false t l) ≠ 0 := by rwa [htl]
  rw [hexec]
  refine ⟨fun hend => ?_, fun hcur hend => ?_⟩
  · rw [takeField_value hx hne (by rwa [htl]), htl]
  · obtain ⟨acc, heq⟩ := takeField_value_short hx hne hcur (by rwa [htl])
    rw [heq]
    exact ⟨_, rfl, rfl⟩

/-- Settles O47: the row takes its field, with the type code in the tag byte only. -/
theorem anyTagSkipsOrTakesTheByteAfterTheTag :
    Obligations.AnyTagSkipsOrTakesTheByteAfterTheTag := by
  intro s t l hl hcap
  have hexec : ∀ f, exec (.tlvAny f t l) s = .next (s.takeField f (tagByte false t l)) :=
    fun f => tagged_next f _ hcap
  have hx := tagX_tagByte false t l
  have htl := tagL_tagByte false t l
  have hne : tagL (tagByte false t l) ≠ 0 := by rwa [htl]
  refine ⟨?_, ?_, fun hnext => ⟨?_, ?_⟩, fun hnext f hf => ?_⟩
  · rw [hexec, takeField_skip (.inl rfl) hx hne, htl]
  · rw [hexec, takeField_skip (.inr rfl) hx hne, htl]
  · rw [hexec, takeField_unit hx hne hnext, htl]
  · rw [hexec, takeField_scaler hx hne hnext, htl]
  · have hbyte : f = .unit ∨ f = .scaler := by
      simpa only [List.mem_cons, List.not_mem_nil, or_false] using hf
    rw [hexec, takeField_byte_short hbyte hx hne hnext]

end Sys2Proof.Proofs.Fields
end

section
/-! PROOFS. MD.DECODE of one metric (spec/43_metric_decoder.md section 6): five sound fields, the first
failure met, and where the cursor can stand. -/

namespace Sys2Proof.Proofs.MetricEntry

open Sys2Proof Sys2Proof.Machine
open Sys2Proof.Proofs.MetricDecoder Sys2Proof.Proofs.Fields

theorem exec_mdDecode_eq {s : State} {i : Nat} {m : Metric} (hm : s.cfg.metrics[i]? = some m)
    (hcap : s.len ≤ s.cfg.capacity) : exec (.mdDecode i) s = .next (s.mdDecode i) :=
  execMdDecode_eq s (index_lt_metricCount hm) hcap

/-- The search answers the offset at which the pattern first stands. -/
theorem findPattern_of_firstAt {s : State} {pat : List Byte} {o : Nat} (h : s.FirstAt pat o) :
    s.findPattern pat = some o := by
  obtain ⟨hend, hat, hfirst⟩ := h
  exact s.findPattern_some.2 ⟨hat, by omega, hfirst⟩

/-! ### Nothing found (R181, R246) -/

theorem mdDecode_of_not_found {s : State} {i : Nat} (h : s.findPattern (s.pattern i) = none) :
    s.mdDecode i = { s with dec := s.dec.set i none } := by
  rw [State.mdDecode, h]

/-- Settles O36: the search answers none. -/
theorem mdDecodeOfMissingPatternIsSilent : Obligations.MdDecodeOfMissingPatternIsSilent := by
  intro s i m hm hcap hnowhere
  rw [exec_mdDecode_eq hm hcap, mdDecode_of_not_found]
  rw [s.pattern_eq hm]
  exact s.findPattern_none.2 hnowhere

/-! ### Five sound fields (R91, R198) -/

theorem atCursor_skipField {s : State} (h : s.GoodTag s.cur) : atCursor skipField s =
    (.ok (), { s with tl := s.buf.read s.cur, cur := s.nextField s.cur }) := by
  obtain ⟨hcur, hx, hl⟩ := h
  rw [atCursor_in s _ hcur, skipField_good s hx hl]
  rfl

theorem atCursor_byteField {s : State} (h : s.GoodTag s.cur) (hnext : s.cur + 1 < s.len) :
    atCursor byteField s =
      (.ok (s.buf.read (s.cur + 1)),
        { s with tl := s.buf.read s.cur, cur := s.nextField s.cur }) := by
  obtain ⟨hcur, hx, hl⟩ := h
  rw [atCursor_in s _ hcur, byteField_good s hx hl hnext]
  rfl

theorem onOk_of_ok {α β : Type} {r : Res α × State} {a : α} {t : State}
    {f : α → State → Res β × State} (h : r = (.ok a, t)) : onOk r f = f a t := by rw [h, onOk]

/-- The five fields, one after the other, from the tag byte offsets that their lengths give. -/
theorem fiveFields_good {s : State} {p1 p2 p3 p4 p5 : Nat}
    (h2 : p2 = s.nextField p1) (h3 : p3 = s.nextField p2) (h4 : p4 = s.nextField p3)
    (h5 : p5 = s.nextField p4)
    (g1 : s.GoodTag p1) (g2 : s.GoodTag p2) (g3 : s.GoodTag p3) (g4 : s.GoodTag p4)
    (g5 : s.GoodTag p5) (hunit : p3 + 1 < s.len) (hscaler : p4 + 1 < s.len)
    (hend : s.nextField p5 ≤ s.len) :
    ∃ rv : AccWord,
      rv.toInt = valueOf s.cfg.signExt (s.buf.read p5)
        (s.bufSlice (p5 + 1) (s.nextField p5)) ∧
      fiveFields { s with cur := p1 } =
        (.ok { rawValue := rv, unit := s.buf.read (p3 + 1), scaler := s.buf.read (p4 + 1) },
          { s with
            cur := p5 + 1, tl := s.buf.read p5,
            acc := BitVec.ofNat 64 (beNat (s.bufSlice (p5 + 1) (s.nextField p5))) }) := by
  subst h2 h3 h4 h5
  obtain ⟨hcur, hx, hl⟩ := g5
  obtain ⟨rv, hrv, hvalue⟩ := valueField_eq hx hl hend
    (s := { s with
      cur := s.nextField (s.nextField (s.nextField (s.nextField p1))),
      tl := s.buf.read (s.nextField (s.nextField (s.nextField p1))) })
  refine ⟨rv, hrv, ?_⟩
  exact (onOk_of_ok (atCursor_skipField (s := { s with cur := p1 }) g1)).trans <|
    (onOk_of_ok (atCursor_skipField g2)).trans <|
    (onOk_of_ok (atCursor_byteField g3 hunit)).trans <|
    (onOk_of_ok (atCursor_byteField g4 hscaler)).trans <|
    onOk_of_ok ((atCursor_in _ _ hcur).trans hvalue)

/-- Settles O35: the pattern is found at `o`, and its five fields are sound. -/
theorem mdDecodeReadsTheFiveFieldsAfterThePattern :
    Obligations.MdDecodeReadsTheFiveFieldsAfterThePattern := by
  intro s i m o p1 p2 p3 p4 p5 hm hcap hfirst h1 h2 h3 h4 h5 g1 g2 g3 g4 g5 hunit hscaler hend
  obtain ⟨rv, hrv, hfields⟩ := fiveFields_good h2 h3 h4 h5 g1 g2 g3 g4 g5 hunit hscaler hend
  refine ⟨rv, hrv, ?_⟩
  rw [exec_mdDecode_eq hm hcap, State.mdDecode, s.pattern_eq hm, findPattern_of_firstAt hfirst]
  simp only
  rw [← h1, hfields]

/-! ### The first failure met (R199) -/

/-- What a run of the decoder over consecutive fields yields, against the failure that the frame shows
from an offset on: a failure of that kind, or a result. -/
def Meets {α : Type} (failure : Option Nat) (r : Res α) : Prop :=
  match failure with
  | some code => ∃ k, r = .fail k ∧ k.code = code
  | none => ∃ a, r = .ok a

/-- The failure of a field depends on the frame, which the decoder leaves. -/
theorem firstFailure_scratch {s t : State} (h : s.Scratch t) (fs : List Field) (p : Nat) :
    t.firstFailure fs p = s.firstFailure fs p := by
  induction fs generalizing p with
  | nil => rfl
  | cons f fs ih =>
    have hfield : t.fieldFailure f p = s.fieldFailure f p := by rw [h]; rfl
    have hnext : t.nextField p = s.nextField p := by rw [h]; rfl
    rw [State.firstFailure, State.firstFailure, hfield, hnext, ih]

/-- An operation that takes a field: it meets the field's failure, or moves to the next field. -/
def TakesField {α : Type} (f : Field) (s : State) (r : Res α × State) : Prop :=
  Meets (s.fieldFailure f s.cur) r.1 ∧
    (s.fieldFailure f s.cur = none → r.2.cur = s.nextField s.cur)

/-- A field's failure at the tag byte is the same for all five fields. -/
theorem fieldFailure_out {s : State} (f : Field) {p : Nat} (h : s.len ≤ p) :
    s.fieldFailure f p = some 6 := if_pos h

theorem fieldFailure_bad {s : State} (f : Field) {p : Nat} (h : p < s.len)
    (hbad : tagX (s.buf.read p) = true ∨ tagL (s.buf.read p) = 0) :
    s.fieldFailure f p = some 3 := (if_neg (Nat.not_le.2 h)).trans (if_pos hbad)

theorem fieldFailure_good {s : State} (f : Field) {p : Nat} (h : s.GoodTag p) :
    s.fieldFailure f p =
      match f with
      | .status => none
      | .time => none
      | .unit => if s.len ≤ p + 1 then some 6 else none
      | .scaler => if s.len ≤ p + 1 then some 6 else none
      | .value => if s.len < s.nextField p then some 6 else none := by
  obtain ⟨hp, hx, hl⟩ := h
  have hgood : ¬ (tagX (s.buf.read p) = true ∨ tagL (s.buf.read p) = 0) :=
    not_or.2 ⟨Bool.eq_false_iff.1 hx, hl⟩
  exact (if_neg (Nat.not_le.2 hp)).trans (if_neg hgood)

/-- What stands at an offset: no byte of the frame, a tag byte that no field takes, or one that each
takes. -/
theorem tag_cases (s : State) (p : Nat) :
    s.len ≤ p ∨ (p < s.len ∧ (tagX (s.buf.read p) = true ∨ tagL (s.buf.read p) = 0)) ∨
      s.GoodTag p := by
  by_cases hp : p < s.len
  · by_cases hbad : tagX (s.buf.read p) = true ∨ tagL (s.buf.read p) = 0
    · exact .inr (.inl ⟨hp, hbad⟩)
    · obtain ⟨hx, hl⟩ := not_or.1 hbad
      exact .inr (.inr ⟨hp, Bool.eq_false_iff.2 hx, hl⟩)
  · exact .inl (Nat.not_lt.1 hp)

theorem TakesField.of_fail {α : Type} {f : Field} {s t : State} {k : ErrKind}
    (h : s.fieldFailure f s.cur = some k.code) : TakesField f s ((.fail k : Res α), t) := by
  rw [TakesField, h]
  exact ⟨⟨k, rfl, rfl⟩, fun hnone => by cases hnone⟩

theorem TakesField.of_ok {α : Type} {f : Field} {s t : State} {a : α}
    (h : s.fieldFailure f s.cur = none) (hcur : t.cur = s.nextField s.cur) :
    TakesField f s (.ok a, t) := by
  rw [TakesField, h]
  exact ⟨⟨a, rfl⟩, fun _ => hcur⟩

theorem skipField_takesField {f : Field} (hf : f = .status ∨ f = .time) (s : State) :
    TakesField f s (atCursor skipField s) := by
  obtain hout | ⟨hcur, hbad⟩ | hgood := tag_cases s s.cur
  · rw [atCursor_out s _ hout]
    exact .of_fail (fieldFailure_out f hout)
  · rw [atCursor_in s _ hcur, skipField_bad s hbad]
    exact .of_fail (fieldFailure_bad f hcur hbad)
  · have hnone : s.fieldFailure f s.cur = none := by
      rw [fieldFailure_good f hgood]
      rcases hf with rfl | rfl <;> rfl
    rw [atCursor_skipField hgood]
    exact .of_ok hnone rfl

theorem byteField_takesField {f : Field} (hf : f = .unit ∨ f = .scaler) (s : State) :
    TakesField f s (atCursor byteField s) := by
  obtain hout | ⟨hcur, hbad⟩ | hgood := tag_cases s s.cur
  · rw [atCursor_out s _ hout]
    exact .of_fail (fieldFailure_out f hout)
  · rw [atCursor_in s _ hcur, byteField_bad s hbad]
    exact .of_fail (fieldFailure_bad f hcur hbad)
  · have hfield : s.fieldFailure f s.cur = if s.len ≤ s.cur + 1 then some 6 else none := by
      rw [fieldFailure_good f hgood]
      rcases hf with rfl | rfl <;> rfl
    by_cases hnext : s.len ≤ s.cur + 1
    · have ⟨hcur, hx, hl⟩ := hgood
      rw [atCursor_in s _ hcur, byteField_short s hx hl hnext]
      exact .of_fail (hfield.trans (if_pos hnext))
    · rw [atCursor_byteField hgood (Nat.not_le.1 hnext)]
      exact .of_ok (hfield.trans (if_neg hnext)) rfl

/-- The Value field is the last one: where it leaves the cursor is no field's offset. -/
theorem valueField_meets (s : State) :
    Meets (s.fieldFailure .value s.cur) (atCursor valueField s).1 := by
  obtain hout | ⟨hcur, hbad⟩ | hgood := tag_cases s s.cur
  · rw [atCursor_out s _ hout, fieldFailure_out _ hout]
    exact ⟨.outOfRange, rfl, rfl⟩
  · rw [atCursor_in s _ hcur, valueField_bad s hbad, fieldFailure_bad _ hcur hbad]
    exact ⟨.unsupportedFieldLength, rfl, rfl⟩
  · have ⟨hcur, hx, hl⟩ := hgood
    rw [atCursor_in s _ hcur, fieldFailure_good _ hgood]
    by_cases hend : s.len < s.nextField s.cur
    · obtain ⟨acc, heq⟩ := valueField_short s hx hl hcur hend
      rw [heq]
      simp only [if_pos hend]
      exact ⟨.outOfRange, rfl, rfl⟩
    · obtain ⟨rv, -, heq⟩ := valueField_eq hx hl (Nat.not_lt.1 hend)
      rw [heq]
      simp only [if_neg hend]
      exact ⟨rv, rfl⟩

/-- A field and the fields after it: the first failure is the field's own, or the first of the rest. -/
theorem Meets.onOk {α β : Type} {f : Field} {fs : List Field} {s : State} {r : Res α × State}
    {next : α → State → Res β × State} (hframe : InFrame s r) (h : TakesField f s r)
    (hnext : ∀ a t, Meets (t.firstFailure fs t.cur) (next a t).1) :
    Meets (s.firstFailure (f :: fs) s.cur) (onOk r next).1 := by
  obtain ⟨res, t⟩ := r
  obtain ⟨hmeets, hcur⟩ := h
  obtain ⟨hscratch, -⟩ := hframe
  rw [State.firstFailure]
  cases hfail : s.fieldFailure f s.cur with
  | some code =>
    rw [hfail] at hmeets
    obtain ⟨k, hk, hcode⟩ := hmeets
    cases hk
    exact ⟨k, rfl, hcode⟩
  | none =>
    rw [hfail] at hmeets
    obtain ⟨a, ha⟩ := hmeets
    cases ha
    have hrest := hnext a t
    rwa [firstFailure_scratch hscratch, hcur hfail] at hrest

theorem firstFailure_singleton (s : State) (f : Field) (p : Nat) :
    s.firstFailure [f] p = s.fieldFailure f p := by
  rw [State.firstFailure]
  cases s.fieldFailure f p <;> rfl

/-- Building the result from the last field's adds no failure. -/
theorem Meets.onOk_ok {α β : Type} {failure : Option Nat} {r : Res α × State} {g : α → β}
    (h : Meets failure r.1) : Meets failure (Machine.onOk r fun a t => (.ok (g a), t)).1 := by
  obtain ⟨res, t⟩ := r
  cases failure with
  | some code =>
    obtain ⟨k, hk, hcode⟩ := h
    cases hk
    exact ⟨k, rfl, hcode⟩
  | none =>
    obtain ⟨a, ha⟩ := h
    cases ha
    exact ⟨g a, rfl⟩

/-- The five fields meet the first failure that the frame shows from the cursor on. -/
theorem fiveFields_meets (s : State) :
    Meets (s.firstFailure entryFields s.cur) (fiveFields s).1 :=
  Meets.onOk (atCursor_frame skipField_frame s) (skipField_takesField (.inl rfl) s) fun _ t =>
  Meets.onOk (atCursor_frame skipField_frame t) (skipField_takesField (.inr rfl) t) fun _ t =>
  Meets.onOk (atCursor_frame byteField_frame t) (byteField_takesField (.inl rfl) t) fun _ t =>
  Meets.onOk (atCursor_frame byteField_frame t) (byteField_takesField (.inr rfl) t) fun _ t => by
    rw [firstFailure_singleton]
    exact (valueField_meets t).onOk_ok

/-- A metric's result where its pattern first stands at `o`. -/
theorem metricResult_of_firstAt {s : State} {i o : Nat} (h : s.FirstAt (s.pattern i) o) :
    metricResult s i = some (fiveFields { s with cur := o + (s.pattern i).length }).1 := by
  rw [metricResult, findPattern_of_firstAt h, Option.map_some]

/-- The report of a result has one of the two codes of R180, and then no value is stored. -/
theorem reportOf_cases (s : State) (i : Nat) :
    reportOf i (metricResult s i) = [] ∨
      (storedValue (metricResult s i) = none ∧
        (reportOf i (metricResult s i) = [.report 3 (some i)] ∨
          reportOf i (metricResult s i) = [.report 6 (some i)])) := by
  rw [metricResult]
  cases s.findPattern (s.pattern i) with
  | none => exact .inl rfl
  | some o =>
    obtain ⟨-, hkinds⟩ := fiveFields_frame { s with cur := o + (s.pattern i).length }
    rw [Option.map_some]
    rcases hr : (fiveFields { s with cur := o + (s.pattern i).length }).1 with v | k
    · exact .inl rfl
    · rw [hr] at hkinds
      rcases hkinds with rfl | rfl
      · exact .inr ⟨rfl, .inl rfl⟩
      · exact .inr ⟨rfl, .inr rfl⟩

/-- Settles O37: MD.DECODE stores its result and emits its report (`mdDecode_eq`), and the result is the
first failure that the frame shows (`fiveFields_meets`). -/
theorem mdDecodeReportsAtMostOnceAndThenIsAbsent :
    Obligations.MdDecodeReportsAtMostOnceAndThenIsAbsent := by
  intro s i m hm hcap
  obtain ⟨cur, tl, acc, heq⟩ := mdDecode_eq s i
  have hout := mdDecode_out s i
  refine ⟨s.mdDecode i, storedValue (metricResult s i), exec_mdDecode_eq hm hcap, by rw [heq], ?_,
    fun o hfirst => ?_⟩
  · rw [hout]
    obtain hnone | ⟨habsent, hcode | hcode⟩ := reportOf_cases s i
    · exact .inl (by rw [hnone, List.append_nil])
    · exact .inr ⟨habsent, .inl (by rw [hcode])⟩
    · exact .inr ⟨habsent, .inr (by rw [hcode])⟩
  · rw [← s.pattern_eq hm] at hfirst ⊢
    have hmeets : Meets (s.firstFailure entryFields (o + (s.pattern i).length)) _ :=
      fiveFields_meets { s with cur := o + (s.pattern i).length }
    rw [hout, metricResult_of_firstAt hfirst]
    refine ⟨fun code hfail => ?_, fun hfail => ?_⟩ <;> rw [hfail] at hmeets
    · obtain ⟨k, hk, rfl⟩ := hmeets
      rw [hk]
      exact ⟨rfl, rfl⟩
    · obtain ⟨v, hv⟩ := hmeets
      rw [hv]
      exact ⟨Option.some_ne_none v, List.append_nil _⟩

/-! ### Where the cursor can stand (R28, R201) -/

/-- The frame's length is `n`, and the cursor is at most 14 past it. -/
def CursorWithin (n : Nat) (s : State) : Prop := s.len = n ∧ s.cur ≤ n + 14

theorem tagL_le (tag : Byte) : (tagL tag).toNat ≤ 15 := Nat.le_of_lt_succ (tagL tag).isLt

theorem CursorWithin.onOk {α β : Type} {n : Nat} {r : Res α × State}
    {f : α → State → Res β × State} (h : CursorWithin n r.2)
    (hf : ∀ a t, CursorWithin n t → CursorWithin n (f a t).2) :
    CursorWithin n (onOk r f).2 := by
  obtain ⟨a | k, t⟩ := r
  · exact hf a t h
  · exact h

/-- A field is taken from a tag byte within the frame, and its length is at most 15. -/
theorem skipField_cursorWithin {n : Nat} {s : State} (h : CursorWithin n s) :
    CursorWithin n (atCursor skipField s).2 := by
  obtain ⟨hlen, hcur⟩ := h
  obtain hout | ⟨hin, hbad⟩ | hgood := tag_cases s s.cur
  · rw [atCursor_out s _ hout]
    exact ⟨hlen, hcur⟩
  · rw [atCursor_in s _ hin, skipField_bad s hbad]
    exact ⟨hlen, hcur⟩
  · obtain ⟨hin, hx, hl⟩ := hgood
    have hL := tagL_le (s.buf.read s.cur)
    rw [atCursor_in s _ hin, skipField_good s hx hl]
    exact ⟨hlen, by simp only; omega⟩

theorem byteField_cursorWithin {n : Nat} {s : State} (h : CursorWithin n s) :
    CursorWithin n (atCursor byteField s).2 := by
  obtain ⟨hlen, hcur⟩ := h
  obtain hout | ⟨hin, hbad⟩ | hgood := tag_cases s s.cur
  · rw [atCursor_out s _ hout]
    exact ⟨hlen, hcur⟩
  · rw [atCursor_in s _ hin, byteField_bad s hbad]
    exact ⟨hlen, hcur⟩
  · obtain ⟨hin, hx, hl⟩ := hgood
    have hL := tagL_le (s.buf.read s.cur)
    rw [atCursor_in s _ hin]
    by_cases hnext : s.cur + 1 < s.len
    · rw [byteField_good s hx hl hnext]
      exact ⟨hlen, by simp only; omega⟩
    · rw [byteField_short s hx hl (Nat.not_lt.1 hnext)]
      exact ⟨hlen, hcur⟩

theorem valueField_cursorWithin {n : Nat} {s : State} (h : CursorWithin n s) :
    CursorWithin n (atCursor valueField s).2 := by
  obtain ⟨hlen, hcur⟩ := h
  obtain hout | ⟨hin, hbad⟩ | hgood := tag_cases s s.cur
  · rw [atCursor_out s _ hout]
    exact ⟨hlen, hcur⟩
  · rw [atCursor_in s _ hin, valueField_bad s hbad]
    exact ⟨hlen, hcur⟩
  · obtain ⟨hin, hx, hl⟩ := hgood
    rw [atCursor_in s _ hin]
    by_cases hend : s.cur + (tagL (s.buf.read s.cur)).toNat ≤ s.len
    · rw [valueField_good s hx hl hend]
      exact ⟨hlen, by simp only; omega⟩
    · obtain ⟨acc, heq⟩ := valueField_short s hx hl hin (Nat.not_le.1 hend)
      rw [heq]
      exact ⟨hlen, by simp only; omega⟩

theorem fiveFields_cursorWithin {n : Nat} {s : State} (h : CursorWithin n s) :
    CursorWithin n (fiveFields s).2 :=
  (skipField_cursorWithin h).onOk fun _ _ h =>
  (skipField_cursorWithin h).onOk fun _ _ h =>
  (byteField_cursorWithin h).onOk fun _ _ h =>
  (byteField_cursorWithin h).onOk fun _ _ h =>
  (valueField_cursorWithin h).onOk fun _ _ h => h

/-- No error and no recovery moves the cursor. -/
theorem raise_cur (s : State) (k : ErrKind) (idx : Option Nat) : (s.raise k idx).cur = s.cur := by
  cases k <;> cases idx <;> rfl

/-- MD.DECODE leaves the cursor, or where the five fields leave it. -/
theorem mdDecode_cur (s : State) (i : Nat) :
    (s.mdDecode i).cur = s.cur ∨
      ∃ o, s.findPattern (s.pattern i) = some o ∧
        (s.mdDecode i).cur = (fiveFields { s with cur := o + (s.pattern i).length }).2.cur := by
  cases hfind : s.findPattern (s.pattern i) with
  | none => exact .inl (by rw [mdDecode_of_not_found hfind])
  | some o =>
    refine .inr ⟨o, rfl, ?_⟩
    rw [State.mdDecode, hfind]
    rcases hr : fiveFields { s with cur := o + (s.pattern i).length } with ⟨v | k, t⟩
    · simp only [hr]
    · simp only [hr]
      exact raise_cur t k (some i)

/-- Settles O38: the first field's tag byte is at most at the frame's end, and every field that is taken
starts within the frame. -/
theorem mdDecodeCursorStaysWithinFourteenOfTheEnd :
    Obligations.MdDecodeCursorStaysWithinFourteenOfTheEnd := by
  intro s i hi hcap
  refine ⟨s.mdDecode i, execMdDecode_eq s hi hcap, ?_⟩
  obtain hkeep | ⟨o, hfind, hcur⟩ := mdDecode_cur s i
  · exact .inl hkeep
  · obtain ⟨-, hlt, -⟩ := s.findPattern_some.1 hfind
    have hstart : CursorWithin s.len { s with cur := o + (s.pattern i).length } :=
      ⟨rfl, by simp only; omega⟩
    rw [hcur]
    exact .inr (fiveFields_cursorWithin hstart).2

end Sys2Proof.Proofs.MetricEntry
end

section
/-! PROOFS. The publisher's consequences (spec/44_publisher.md): the scaling at the ends of its range of
exponents, and PUB.WRITE by its three tests. -/

namespace Sys2Proof.Proofs.PublisherOps

open Sys2Proof Sys2Proof.Machine
open Sys2Proof.Proofs.Publisher

/-! ### The scaling (R216, R224) -/

theorem pubScale_of_nonneg {rv sc : Int} (h : 0 ≤ sc + 3) :
    pubScale rv sc = rv * 10 ^ (sc + 3).toNat := if_pos h

theorem pubScale_of_neg {rv sc : Int} (h : sc + 3 < 0) :
    pubScale rv sc = roundDiv rv (10 ^ (-(sc + 3)).toNat) := if_neg (not_le.2 h)

/-- A magnitude below half of the divisor rounds to 0. -/
theorem roundDiv_eq_zero {rv : Int} {d : Nat} (h : 2 * rv.natAbs < d) : roundDiv rv d = 0 := by
  have hquot : (2 * rv.natAbs + d) / (2 * d) = 0 := Nat.div_eq_of_lt (by omega)
  obtain ⟨-, hround⟩ | ⟨-, hround⟩ := roundDiv_cases rv d <;> rw [hround, hquot] <;> rfl

/-- Settles O41: 10^10 times a magnitude of at least 1, and a 64-bit magnitude against half of 10^20. -/
theorem scaledValueLeavesTheSlotRangeOrVanishesForLargeExponents :
    Obligations.ScaledValueLeavesTheSlotRangeOrVanishesForLargeExponents := by
  intro rv sc
  refine ⟨?_, fun hrv hexp => ?_, fun hexp => ?_⟩
  · rintro rfl
    have hzero : (0 : AccWord).toInt = 0 := BitVec.toInt_zero
    rw [hzero]
    by_cases hexp : 0 ≤ sc.toInt + 3
    · rw [pubScale_of_nonneg hexp, zero_mul]
    · rw [pubScale_of_neg (not_le.1 hexp)]
      exact roundDiv_eq_zero (Nat.pow_pos (by decide))
  · have hmag : 1 ≤ |rv.toInt| := Int.one_le_abs fun h => hrv (BitVec.toInt_inj.1 h)
    have hpow : (10 : Int) ^ 10 ≤ 10 ^ (sc.toInt + 3).toNat :=
      pow_le_pow_right₀ (by decide) (by omega)
    rw [pubScale_of_nonneg (by omega), abs_mul, abs_pow, show |(10 : Int)| = 10 from rfl]
    exact hpow.trans (le_mul_of_one_le_left (pow_nonneg (by decide) _) hmag)
  · have hlow : -2 ^ 63 ≤ rv.toInt := BitVec.le_toInt rv
    have hhigh : rv.toInt < 2 ^ 63 := BitVec.toInt_lt
    have hpow : 10 ^ 20 ≤ 10 ^ (-(sc.toInt + 3)).toNat :=
      Nat.pow_le_pow_right (by decide) (by omega)
    rw [pubScale_of_neg (by omega)]
    exact roundDiv_eq_zero (by omega)

/-! ### PUB.WRITE (R219) -/

theorem exec_pubWrite_eq {s : State} {i : Nat} (h : i < s.cfg.metricCount) :
    exec (.pubWrite i) s = .next (s.pubWrite i) := execPubWrite_eq s h

theorem present_eq_false_iff (s : State) (i : Nat) :
    s.present i = false ↔ s.dec[i]?.join = none :=
  Option.isSome_eq_false_iff.trans Option.isNone_iff_eq_none

/-- Settles O42: the three tests in order, each with its own equation of PUB.WRITE. -/
theorem pubWriteTestsAbsenceThenSlotThenRange :
    Obligations.PubWriteTestsAbsenceThenSlotThenRange := by
  intro s i hi
  rw [exec_pubWrite_eq hi]
  refine ⟨fun habsent => ?_, fun v hv => ?_⟩
  · rw [s.pubWrite_absent ((present_eq_false_iff s i).1 habsent)]
  · have hdec : s.dec[i]?.join = some v := by rw [hv, Option.join_some]
    refine ⟨fun hslot => by rw [s.pubWrite_noSlot hdec hslot], ?_⟩
    rintro hslot q rfl
    refine ⟨fun hout => ?_, fun hlow hhigh => ?_⟩
    · have hfits : ¬ fitsSlot s.cfg.slotWidth v.scaled = true := fun hf => by
        obtain ⟨hlow, hhigh⟩ := (fitsSlot_iff _ _).1 hf
        exact hout.elim (not_lt.2 hlow) (not_lt.2 hhigh)
      rw [s.pubWrite_range hdec hslot hfits]
    · rw [s.pubWrite_fits hdec hslot ((fitsSlot_iff _ _).2 ⟨hlow, hhigh⟩)]
      rfl

end Sys2Proof.Proofs.PublisherOps
end

section
/-! PROOFS. What a step runs (spec/30_encoding.md section 5, spec/42_framing_fsm.md section 5), and where
the operations stop. -/

namespace Sys2Proof.Proofs.Step

open Sys2Proof Sys2Proof.Machine
open Sys2Proof.Proofs.Fields (exec_decodeTag)

/-! ### The fetch, by what there is to run -/

variable {s : State}

theorem fetch_port {w : OpWord} (h : s.port = some w) :
    s.fetch = (w, { s with port := none }) := by rw [State.fetch, h]

theorem fetch_decode (hport : s.port = none) (hst : s.st = .decode) :
    s.fetch = (internalWord s.st, s) := by
  rw [State.fetch, hport]
  exact if_pos hst

theorem fetch_byte {b : Byte} {bs : List Byte} (hport : s.port = none) (hst : s.st ≠ .decode)
    (hrest : s.rest = b :: bs) : s.fetch = (byteWord s.st b, { s with rest := bs }) := by
  rw [State.fetch, hport]
  refine (if_neg hst).trans ?_
  rw [hrest]

theorem fetch_event {e : Event} {es : List Event} (hport : s.port = none) (hst : s.st ≠ .decode)
    (hrest : s.rest = []) (hpend : s.pend = e :: es) :
    s.fetch = (eventWord s.st e, State.take e { s with pend := es }) := by
  rw [State.fetch, hport]
  refine (if_neg hst).trans ?_
  rw [hrest, hpend]

theorem fetch_idle (hport : s.port = none) (hst : s.st ≠ .decode) (hrest : s.rest = [])
    (hpend : s.pend = []) : s.fetch = (internalWord s.st, s) := by
  rw [State.fetch, hport]
  refine (if_neg hst).trans ?_
  rw [hrest, hpend]

/-- A step runs the operation that the fetched word decodes to, on the state that has taken it. -/
theorem step_of_fetch {w : OpWord} {u : State} {i : Instr} (hwf : s.cfg.wf = true)
    (hfetch : s.fetch = (w, u)) (hdecode : decode w = .instr i) : step s = exec i u := by
  rw [step, if_pos hwf, hfetch, hdecode]

/-! ### Time operands of more than 64 bits

An event's word keeps the low 64 bits of its time, and a time register takes no more than those. -/

theorem timeWidth_le {c : Config} (h : c.wf = true) : c.timeWidth ≤ 64 := by
  obtain ⟨-, -, -, -, -, -, -, -, -, hwidth, -⟩ := c.wf_iff.1 h
  exact hwidth

theorem exec_reset_mod (hwf : s.cfg.wf = true) (ss : FrameState) (now : Time) :
    exec (.reset ss (now % 256 ^ 8)) s = exec (.reset ss now) s := by
  have hmod := timeOf_mod (timeWidth_le hwf) now
  rw [exec, exec, execReset, execReset, State.setTime, State.setTime, hmod]

theorem exec_tick_mod (hwf : s.cfg.wf = true) (ss : FrameState) (now : Time) (bs : List Byte) :
    exec (.tick ss (now % 256 ^ 8) bs) s = exec (.tick ss now bs) s := by
  have hmod := timeOf_mod (timeWidth_le hwf) now
  rw [exec, exec, execTick, execTick, State.tick, State.tick, State.setTime, State.setTime, hmod]

/-! ### The step, by what there is to run -/

theorem step_decode (hwf : s.cfg.wf = true) (hport : s.port = none) (hst : s.st = .decode) :
    step s = exec .decode s :=
  step_of_fetch hwf (fetch_decode hport hst) ((decode_internalWord s.st).trans (by rw [if_pos hst]))

theorem step_idle (hwf : s.cfg.wf = true) (hport : s.port = none) (hst : s.st ≠ .decode)
    (hrest : s.rest = []) (hpend : s.pend = []) : step s = exec (.selNone s.st) s :=
  step_of_fetch hwf (fetch_idle hport hst hrest hpend)
    ((decode_internalWord s.st).trans (by rw [if_neg hst]))

theorem step_reset {now : Time} {es : List Event} (hwf : s.cfg.wf = true) (hport : s.port = none)
    (hst : s.st ≠ .decode) (hrest : s.rest = []) (hpend : s.pend = .reset now :: es) :
    step s = exec (.reset s.st now) { s with pend := es } :=
  (step_of_fetch hwf (fetch_event hport hst hrest hpend) (decode_resetEvent s.st now)).trans
    (exec_reset_mod (s := { s with pend := es }) hwf s.st now)

theorem step_tick {now : Time} {bs : List Byte} {es : List Event} (hwf : s.cfg.wf = true)
    (hport : s.port = none) (hst : s.st ≠ .decode) (hrest : s.rest = [])
    (hpend : s.pend = .tick now bs :: es) :
    step s = exec (.tick s.st now bs) { s with pend := es } :=
  (step_of_fetch hwf (fetch_event hport hst hrest hpend) (decode_tickEvent s.st now bs)).trans
    (exec_tick_mod (s := { s with pend := es }) hwf s.st now bs)

theorem step_tickSteps {now : Time} {bs : List Byte} {es : List Event} (hwf : s.cfg.wf = true)
    (hport : s.port = none) (hst : s.st ≠ .decode) (hrest : s.rest = [])
    (hpend : s.pend = .tickSteps now bs :: es) :
    step s = exec .tmoChk
      { s with tnow := now % 2 ^ s.cfg.timeWidth, rest := bs, pend := es } :=
  step_of_fetch hwf (fetch_event hport hst hrest hpend) (decode_tickStepsEvent s.st now bs)

/-- The operation that consumes an input byte in a framing state (R150). -/
def rxOp (q : FrameState) (b : Byte) : Instr :=
  match q with
  | .awaitStart => .rxAs b
  | .accumulateBody => .rxAb b
  | .readTrailer => .rxRt b
  | .decode => .rxDe b

theorem decode_byteWord_eq_rxOp (q : FrameState) (b : Byte) :
    decode (byteWord q b) = .instr (rxOp q b) := by
  cases q <;> rfl

theorem exec_rxOp (b : Byte) (s : State) : exec (rxOp s.st b) s = s.rx b := by
  cases hq : s.st with
  | awaitStart => exact (s.inState_eq hq _).trans (s.rx_awaitStart b hq).symm
  | accumulateBody => exact (s.inState_eq hq _).trans (s.rx_accumulateBody b hq).symm
  | readTrailer => exact (s.inState_eq hq _).trans (s.rx_readTrailer b hq).symm
  | decode => exact (s.rx_decode b hq).symm

/-- A byte of a tick in progress is consumed by RX. -/
theorem step_byte {b : Byte} {bs : List Byte} (hwf : s.cfg.wf = true) (hport : s.port = none)
    (hst : s.st ≠ .decode) (hrest : s.rest = b :: bs) :
    step s = State.rx b { s with rest := bs } :=
  (step_of_fetch hwf (fetch_byte hport hst hrest) (decode_byteWord_eq_rxOp s.st b)).trans
    (exec_rxOp b { s with rest := bs })

/-- Settles O4: the port is fetched first. -/
theorem stepRunsTheDecodedOperation : Obligations.StepRunsTheDecodedOperation :=
  fun _ _ _ hwf hport hdecode => step_of_fetch hwf (fetch_port hport) hdecode

/-- Settles O5: one equation of the step for each thing that there can be to run. -/
theorem eventAndFramingStateSelectTheOperation :
    Obligations.EventAndFramingStateSelectTheOperation := by
  intro s hwf hport
  refine ⟨step_decode hwf hport, fun hst => ⟨fun b bs hrest => ?_, fun hrest => ?_⟩⟩
  · have hbyte : ∀ q, s.st = q → step s = exec (rxOp q b) { s with rest := bs } := fun q hq =>
      hq ▸ step_of_fetch hwf (fetch_byte hport hst hrest) (decode_byteWord_eq_rxOp s.st b)
    exact ⟨hbyte .awaitStart, hbyte .accumulateBody, hbyte .readTrailer⟩
  · exact ⟨step_idle hwf hport hst hrest, fun _ _ => step_reset hwf hport hst hrest,
      fun _ _ _ => step_tick hwf hport hst hrest, fun _ _ _ => step_tickSteps hwf hport hst hrest⟩

/-- Settles O6: each of the three conditions fails one clause of `Config.wf`. -/
theorem illegalConfigurationIsRefused : Obligations.IllegalConfigurationIsRefused := by
  intro s hbad
  refine if_neg fun hwf => ?_
  obtain ⟨hcap, hreserve, -, -, -, -, -, hpatterns, -⟩ := s.cfg.wf_iff.1 hwf
  obtain hsmall | hne | ⟨m, hm, hempty⟩ := hbad
  · omega
  · exact hne hreserve
  · have hlength := hpatterns m hm
    rw [hempty] at hlength
    exact absurd hlength (by decide)

/-- Settles O8: the reset state is one concrete state, on which every clause evaluates. -/
theorem resetStateIsEventDriven : Obligations.ResetStateIsEventDriven := by
  unfold Obligations.ResetStateIsEventDriven
  decide

/-- Settles O24: SEL.NONE is the identity (R161). -/
theorem selNoneChangesNothing : Obligations.SelNoneChangesNothing := fun _ _ => rfl

/-! ### Where the operations stop -/

/-- With `len` beyond `C` an operation that reads BUF below `len` has no such address (R83). -/
theorem readingBuf_fault (h : s.cfg.capacity < s.len) (o : Outcome) :
    s.readingBuf o = .fault .bufAddress := if_neg (Nat.not_le.2 h)

theorem spanOk_eq_false {lo hi : Nat} (h : hi < lo ∨ s.len < hi) : s.spanOk lo hi = false := by
  refine Bool.eq_false_iff.2 fun hok => ?_
  obtain ⟨hle, hlen⟩ := (s.spanOk_iff lo hi).1 hok
  omega

theorem isMetric_eq_false {i : Nat} (h : s.cfg.metricCount ≤ i) : s.isMetric i = false :=
  Bool.eq_false_iff.2 fun hok => Nat.not_lt.2 h ((s.isMetric_iff i).1 hok)

theorem hasChecksum_eq_false (h : s.len < 2 ∨ s.cfg.capacity < s.len) : s.hasChecksum = false := by
  refine Bool.eq_false_iff.2 fun hok => ?_
  obtain ⟨hlen, hcap⟩ := s.hasChecksum_iff.1 hok
  omega

theorem refused_of_bad_span {lo hi : Nat} (h : hi < lo ∨ s.len < hi) :
    exec (.bufSlice lo hi) s = .refused .badSpan ∧ exec (.crcSpan lo hi) s = .refused .badSpan := by
  have hbad := Bool.eq_false_iff.1 (spanOk_eq_false h)
  exact ⟨if_neg hbad, if_neg hbad⟩

theorem refused_of_no_metric {i : Nat} (h : s.cfg.metricCount ≤ i) :
    exec (.mdFind i) s = .refused .noSuchMetric ∧ exec (.mdDecode i) s = .refused .noSuchMetric ∧
      exec (.pubWrite i) s = .refused .noSuchMetric := by
  have hbad := Bool.eq_false_iff.1 (isMetric_eq_false h)
  exact ⟨if_neg hbad, if_neg hbad, if_neg hbad⟩

theorem fault_of_no_checksum (h : s.len < 2 ∨ s.cfg.capacity < s.len) :
    exec .crcVerify s = .fault .bufAddress ∧
      (s.st = .decode → exec .decode s = .fault .bufAddress) := by
  have hbad := Bool.eq_false_iff.1 (hasChecksum_eq_false h)
  exact ⟨if_neg hbad, fun hst => (s.inState_eq hst _).trans (if_neg hbad)⟩

/-- Settles O22: each stop is the failing branch of the operation's own test. -/
theorem operationsStopOutsideTheirConditions :
    Obligations.OperationsStopOutsideTheirConditions := by
  intro s
  refine ⟨fun b limit h => if_pos h, fun lo hi => refused_of_bad_span,
    fun i => refused_of_no_metric, fun h b => s.inState_ne h _, fun h b => s.inState_ne h _,
    fun h b => s.inState_ne h _, fun h => s.inState_ne h _, fault_of_no_checksum,
    fun hfull hst b => (s.inState_eq hst _).trans (s.rxAs_outside hfull), fun hlen => ?_⟩
  refine ⟨fun op hop => ?_, fun k => readingBuf_fault hlen _, fun lo hi hle hhi => ?_,
    fun i hi => ?_, fun f tag => ?_⟩
  · simp only [List.mem_cons, List.not_mem_nil, or_false] at hop
    rcases hop with rfl | rfl | rfl | rfl | rfl | rfl <;> exact readingBuf_fault hlen _
  · have hok := (s.spanOk_iff lo hi).2 ⟨hle, hhi⟩
    exact ⟨(if_pos hok).trans (readingBuf_fault hlen _),
      (if_pos hok).trans (readingBuf_fault hlen _)⟩
  · have hok := (s.isMetric_iff i).2 hi
    exact ⟨(if_pos hok).trans (readingBuf_fault hlen _),
      (if_pos hok).trans (readingBuf_fault hlen _)⟩
  · rw [exec_decodeTag]
    exact readingBuf_fault hlen _

end Sys2Proof.Proofs.Step
end

section
/-! PROOFS. The framing invariant (spec/10_state.md R44): every byte, every DECODE and every event that
the environment drives completes and keeps it, so no state of such a run is stuck (R16, R296). -/

namespace Sys2Proof.Proofs.FramingInvariant

open Sys2Proof Sys2Proof.Machine
open Sys2Proof.Proofs.Updates Sys2Proof.Proofs.Step
open Sys2Proof.Proofs.Framing (endMarker_length startMarker_fits)

/-! ### Slices after a store -/

/-- A span below the stored address reads as before. -/
theorem stored_bufSlice {s : State} (h : Memory.wf s.buf = true) (b : Byte) (lo : Nat) {hi : Nat}
    (hhi : hi ≤ s.len) : (s.stored b).bufSlice lo hi = s.bufSlice lo hi := by
  refine State.bufSlice_congr fun k _ hk => ?_
  rw [State.stored, Memory.read_write h, if_neg (by omega)]

/-- A span up to the stored address has the byte at its end. -/
theorem stored_bufSlice_succ {s : State} (h : Memory.wf s.buf = true) (b : Byte) {lo : Nat}
    (hlo : lo ≤ s.len) :
    (s.stored b).bufSlice lo (s.len + 1) = s.bufSlice lo s.len ++ [b] := by
  have hread : (s.stored b).buf.read s.len = b := by
    rw [State.stored, Memory.read_write h, if_pos rfl]
  rw [State.bufSlice_succ _ hlo, hread, stored_bufSlice h b lo le_rfl]

/-! ### R44, one framing state at a time -/

theorem framed_of_awaitStart {s : State} (hst : s.st = .awaitStart) (hlen : s.len ≤ 7)
    (hstart : s.bufSlice 0 s.len = startBytes.take s.len) : s.Framed := by
  refine ⟨fun _ => ⟨hlen, hstart⟩, ?_, ?_, ?_⟩ <;> rw [hst] <;> rintro ⟨⟩

/-- AwaitStart with nothing matched. -/
theorem framed_of_fresh {s : State} (hst : s.st = .awaitStart) (hlen : s.len = 0) : s.Framed :=
  framed_of_awaitStart hst (by omega) (by rw [hlen]; rfl)

theorem framed_of_accumulateBody {s : State} (hst : s.st = .accumulateBody) (hlen : 8 ≤ s.len)
    (hroom : s.len ≤ s.cfg.capacity - s.cfg.reserve) (hstart : s.bufSlice 0 8 = startBytes)
    (hend : 13 ≤ s.len → s.bufSlice (s.len - 5) s.len ≠ endBytes) : s.Framed := by
  refine ⟨?_, fun _ => ⟨hlen, hroom, hstart, hend⟩, ?_, ?_⟩ <;> rw [hst] <;> rintro ⟨⟩

/-- ReadTrailer with `k` trailer bytes read: END stands right before them. -/
theorem framed_of_readTrailer {s : State} {k : Nat} (hst : s.st = .readTrailer) (htrem : s.trem ≠ 0)
    (hk : k = 3 - s.trem.toNat) (hstart : s.bufSlice 0 8 = startBytes) (hlen : 13 ≤ s.len - k)
    (hroom : s.len - k ≤ s.cfg.capacity - s.cfg.reserve)
    (hend : s.bufSlice (s.len - k - 5) (s.len - k) = endBytes) : s.Framed := by
  subst hk
  refine ⟨?_, ?_, fun _ => ⟨htrem, hstart, hlen, hroom, hend⟩, ?_⟩ <;> rw [hst] <;> rintro ⟨⟩

theorem framed_of_decode {s : State} (hst : s.st = .decode) (htrem : s.trem = 0)
    (hlen : 16 ≤ s.len) (hcap : s.len ≤ s.cfg.capacity) (hstart : s.bufSlice 0 8 = startBytes)
    (hend : s.bufSlice (s.len - 8) (s.len - 3) = endBytes) : s.Framed := by
  refine ⟨?_, ?_, ?_, fun _ => ⟨htrem, hlen, hcap, hstart, hend⟩⟩ <;> rw [hst] <;> rintro ⟨⟩

/-! ### What the configuration gives (R6, R7) -/

/-- With the markers of this hardware three bytes are reserved, and the shortest frame fits. -/
theorem reserve_eq {c : Config} (hwf : c.wf = true) (hgiven : c.Given) :
    c.reserve = 3 ∧ 16 ≤ c.capacity := by
  obtain ⟨hcap, hreserve, -, hstart, hend, -⟩ := c.wf_iff.1 hwf
  obtain ⟨-, -, htrailer⟩ := hgiven
  omega

/-- What a sequence of updates cannot break: only the framing itself is left to show. -/
theorem eventDriven_of_reaches {s t : State} (h : Reaches s t) (hs : s.EventDriven)
    (hframed : t.Framed) : t.EventDriven := by
  obtain ⟨hsane, hgiven, -, hport⟩ := hs
  obtain ⟨hcfg, -, -, hport'⟩ := Reaches.sameEnvironment h
  exact ⟨Reaches.sane h hsane, hcfg ▸ hgiven, hframed, hport'.trans hport⟩

/-! ### One byte -/

theorem rxAs_keeps_framed {s : State} (b : Byte) (hs : s.EventDriven) (hst : s.st = .awaitStart) :
    ∃ t, s.rxAs b = .next t ∧ t.Framed := by
  obtain ⟨⟨hwf, hbuf, -⟩, hgiven, hframed, -⟩ := hs
  obtain ⟨hlen, hstart⟩ := hframed.1 hst
  obtain ⟨hreserve, hcap⟩ := reserve_eq hwf hgiven
  have hmarker : s.cfg.startMarker = startBytes := hgiven.1
  have hroom : s.len < s.cfg.capacity := by omega
  have hslice : (s.stored b).bufSlice 0 (s.len + 1) = startBytes.take s.len ++ [b] := by
    rw [stored_bufSlice_succ hbuf b (Nat.zero_le _), hstart]
  by_cases hb : s.cfg.startMarker[s.len]? = some b
  · have hmatched : (s.stored b).bufSlice 0 (s.len + 1) = startBytes.take (s.len + 1) := by
      rw [hslice, List.take_add_one, ← hmarker, hb]
      rfl
    by_cases hlast : s.len + 1 = s.cfg.startMarker.length
    · have h8 : s.len + 1 = 8 := by rw [hlast, hmarker]; rfl
      refine ⟨_, s.rxAs_last hroom hb hlast, framed_of_accumulateBody rfl h8.ge ?_ ?_ ?_⟩
      · simp only
        omega
      · rw [h8] at hmatched
        exact hmatched
      · simp only
        omega
    · have h8 : s.len + 1 ≠ 8 := fun h8 => hlast (by rw [h8, hmarker]; rfl)
      refine ⟨_, s.rxAs_match hroom hb hlast, framed_of_awaitStart hst ?_ hmatched⟩
      simp only
      omega
  · exact ⟨_, s.rxAs_miss hroom hb, framed_of_fresh hst rfl⟩

/-- END cannot stand on bytes of START: its first byte would be one of START's last four (R155). -/
theorem thirteen_le_of_end {s : State} {n : Nat} (hn : 9 ≤ n) (hstart : s.bufSlice 0 8 = startBytes)
    (hend : s.bufSlice (n - 5) n = endBytes) : 13 ≤ n := by
  by_contra hlt
  have hfirst : s.buf.read (n - 5) = 0x1B := by
    have h := s.bufSlice_getElem? (lo := n - 5) (hi := n) (k := 0) (by omega)
    rw [hend] at h
    exact (Option.some.inj h).symm
  have hlast : startBytes[n - 5]? = some (s.buf.read (n - 5)) := by
    have h := s.bufSlice_getElem? (lo := 0) (hi := 8) (k := n - 5) (by omega)
    rwa [hstart, Nat.zero_add] at h
  have hones : ∀ k < 4, startBytes[k + 4]? = some 0x01 := by decide
  have hone := hones (n - 9) (by omega)
  rw [show n - 9 + 4 = n - 5 by omega, hlast, hfirst] at hone
  exact absurd hone (by decide)

theorem rxAb_keeps_framed {s : State} (b : Byte) (hs : s.EventDriven)
    (hst : s.st = .accumulateBody) : (s.rxAb b).Framed := by
  obtain ⟨⟨hwf, hbuf, -⟩, hgiven, hframed, -⟩ := hs
  obtain ⟨hlen, hroom, hstart, -⟩ := hframed.2.1 hst
  obtain ⟨-, hmarker, htrailer⟩ := hgiven
  have hstart' : (s.stored b).bufSlice 0 8 = startBytes := by
    rw [stored_bufSlice hbuf b 0 hlen, hstart]
  have hend := Framing.stored_endMatched_iff hwf hlen b
  rw [hmarker] at hend
  obtain ⟨-, heq⟩ | ⟨hfits, hmatch, heq⟩ | ⟨hfits, hmatch, heq⟩ := s.rxAb_cases b
  · rw [heq, s.raise_bufferOverflow]
    exact framed_of_fresh rfl rfl
  · have hmatch' := hend.1 hmatch
    have h13 := thirteen_le_of_end (by omega) hstart' hmatch'
    rw [heq, htrailer]
    exact framed_of_readTrailer (k := 0) rfl (by decide : BitVec.ofNat 2 3 ≠ 0) rfl hstart' h13 hfits hmatch'
  · rw [heq]
    refine framed_of_accumulateBody hst ?_ hfits hstart' fun _ h => hmatch (hend.2 h)
    exact hlen.trans (Nat.le_succ _)

theorem rxRt_keeps_framed {s : State} (b : Byte) (hs : s.EventDriven) (hst : s.st = .readTrailer) :
    (s.rxRt b).Framed := by
  obtain ⟨⟨hwf, hbuf, -⟩, hgiven, hframed, -⟩ := hs
  obtain ⟨htrem, hstart, hlen, hroom, hend⟩ := hframed.2.2.1 hst
  obtain ⟨hreserve, -⟩ := reserve_eq hwf hgiven
  have hpos : s.trem.toNat ≠ 0 := BitVec.toNat_ne.1 htrem
  have hlt : s.trem.toNat < 4 := s.trem.isLt
  have hfits : s.len + 1 ≤ s.cfg.capacity := by omega
  have hstart' : (s.stored b).bufSlice 0 8 = startBytes := by
    rw [stored_bufSlice hbuf b 0 (by omega), hstart]
  have hend' : (s.stored b).bufSlice (s.len - (3 - s.trem.toNat) - 5)
      (s.len - (3 - s.trem.toNat)) = endBytes := by
    rw [stored_bufSlice hbuf b _ (by omega), hend]
  by_cases h1 : s.trem = 1
  · have h1' : s.trem.toNat = 1 := by rw [h1]; rfl
    rw [h1'] at hend' hlen
    rw [s.rxRt_last hfits h1]
    refine framed_of_decode rfl rfl ?_ hfits hstart' ?_
    · simp only [State.stored]
      omega
    · have hlast : (s.stored b).bufSlice (s.len + 1 - 8) (s.len + 1 - 3) = endBytes := by
        rwa [show s.len + 1 - 8 = s.len - (3 - 1) - 5 by omega,
          show s.len + 1 - 3 = s.len - (3 - 1) by omega]
      exact hlast
  · have hdown : (s.trem - 1).toNat = s.trem.toNat - 1 := by
      rw [BitVec.toNat_sub_of_le (by rw [BitVec.le_def]; exact Nat.one_le_iff_ne_zero.2 hpos)]
      rfl
    have hne1 : s.trem.toNat ≠ 1 := fun h => h1 (BitVec.eq_of_toNat_eq h)
    have hcount : s.len + 1 - (3 - (s.trem.toNat - 1)) = s.len - (3 - s.trem.toNat) := by omega
    rw [s.rxRt_more hfits h1]
    refine framed_of_readTrailer (k := 3 - (s.trem.toNat - 1)) hst ?_ (by rw [hdown]) hstart' ?_ ?_
      ?_
    · have hleft : (s.trem - 1).toNat ≠ 0 := by omega
      exact BitVec.toNat_ne.2 hleft
    · exact hcount ▸ hlen
    · exact hcount ▸ hroom
    · exact hcount ▸ hend'

/-- Outside Decode a byte is consumed, and the invariant kept. -/
theorem rx_keeps {s : State} (b : Byte) (hs : s.EventDriven) (hst : s.st ≠ .decode) :
    ∃ t, s.rx b = .next t ∧ t.EventDriven := by
  obtain ⟨t, hrx, hframed⟩ : ∃ t, s.rx b = .next t ∧ t.Framed := by
    cases hq : s.st with
    | awaitStart => exact s.rx_awaitStart b hq ▸ rxAs_keeps_framed b hs hq
    | accumulateBody => exact ⟨_, s.rx_accumulateBody b hq, rxAb_keeps_framed b hs hq⟩
    | readTrailer => exact ⟨_, s.rx_readTrailer b hq, rxRt_keeps_framed b hs hq⟩
    | decode => exact absurd hq hst
  exact ⟨t, hrx, eventDriven_of_reaches (reaches_rx hrx) hs hframed⟩

/-! ### DECODE and the byte loop -/

/-- DECODE completes wherever two checksum bytes are in the buffer. -/
theorem decodeFrame_completes {s : State} (hlen : 2 ≤ s.len) (hcap : s.len ≤ s.cfg.capacity) :
    ∃ t, s.decodeFrame = .next t := by
  cases hv : s.crcVerify.1 with
  | false => exact ⟨_, s.decodeFrame_mismatch hlen hcap hv⟩
  | true => exact ⟨_, s.decodeFrame_valid hlen hcap hv⟩

/-- DECODE ends in AwaitStart with nothing matched, whichever way the checksum goes (R158). -/
theorem decodeFrame_fresh {s t : State} (h : s.decodeFrame = .next t) :
    t.st = .awaitStart ∧ t.len = 0 := by
  obtain ⟨-, -, ⟨-, rfl⟩ | ⟨-, rfl⟩⟩ := s.decodeFrame_cases h
  · exact ⟨rfl, rfl⟩
  · exact ⟨rfl, rfl⟩

theorem decodeFrame_keeps {s : State} (hs : s.EventDriven) (hst : s.st = .decode) :
    ∃ t, s.decodeFrame = .next t ∧ t.EventDriven ∧ t.st ≠ .decode := by
  obtain ⟨-, -, hframed, -⟩ := id hs
  obtain ⟨-, hlen, hcap, -⟩ := hframed.2.2.2 hst
  obtain ⟨t, ht⟩ := decodeFrame_completes (by omega : 2 ≤ s.len) hcap
  obtain ⟨hfresh, hzero⟩ := decodeFrame_fresh ht
  refine ⟨t, ht, eventDriven_of_reaches (reaches_decodeFrame ht) hs (framed_of_fresh hfresh hzero),
    ?_⟩
  rw [hfresh]
  decide

theorem settle_keeps {s : State} (hs : s.EventDriven) :
    ∃ t, s.settle = .next t ∧ t.EventDriven ∧ t.st ≠ .decode := by
  by_cases hst : s.st = .decode
  · rw [s.settle_decode hst]
    exact decodeFrame_keeps hs hst
  · exact ⟨s, s.settle_other hst, hs, hst⟩

/-- Between bytes the block is never in Decode (R160), so every byte is consumed. -/
theorem feed_keeps (bs : List Byte) {s : State} (hs : s.EventDriven) (hst : s.st ≠ .decode) :
    ∃ t, s.feed bs = .next t ∧ t.EventDriven ∧ t.st ≠ .decode := by
  induction bs generalizing s with
  | nil => exact ⟨s, rfl, hs, hst⟩
  | cons b bs ih =>
    obtain ⟨u, hrx, hu⟩ := rx_keeps b hs hst
    obtain ⟨v, hsettle, hv, hvst⟩ := settle_keeps hu
    rw [s.feed_cons, hrx, Outcome.andThen_next, hsettle, Outcome.andThen_next]
    exact ih hv hvst

/-! ### The operations of an event-driven step -/

theorem setTime_keeps {s : State} (now : Time) (hs : s.EventDriven) :
    (s.setTime now).EventDriven := by
  obtain ⟨-, -, hframed, -⟩ := id hs
  exact eventDriven_of_reaches (.single (.sampleTime s now)) hs hframed

theorem tmoChk_keeps {s : State} (hs : s.EventDriven) : s.tmoChk.EventDriven := by
  refine eventDriven_of_reaches (reaches_tmoChk s) hs ?_
  rw [State.tmoChk]
  split_ifs
  · exact framed_of_fresh rfl rfl
  · exact hs.2.2.1

/-- The timeout check does not enter Decode. -/
theorem tmoChk_st_ne_decode {s : State} (hst : s.st ≠ .decode) : s.tmoChk.st ≠ .decode := by
  rw [State.tmoChk]
  split_ifs
  · rw [s.raise_timeout, State.enterAs_st]
    decide
  · exact hst

theorem tick_keeps {s : State} (now : Time) (bs : List Byte) (hs : s.EventDriven)
    (hst : s.st ≠ .decode) :
    ∃ t, s.tick now bs = .next t ∧ t.EventDriven ∧ t.st ≠ .decode := by
  have hchecked : (s.setTime now).tmoChk.st ≠ .decode := tmoChk_st_ne_decode hst
  rw [State.tick, State.deliver_other _ bs hchecked]
  exact feed_keeps bs (tmoChk_keeps (setTime_keeps now hs)) hchecked

theorem execReset_keeps {s : State} (ss : FrameState) (now : Time) (hs : s.EventDriven) :
    ∃ t, execReset ss now s = .next t ∧ t.EventDriven :=
  ⟨_, rfl, eventDriven_of_reaches (reaches_reset s now) hs (framed_of_fresh rfl rfl)⟩

/-- The invariant does not read the waiting bytes and events. -/
theorem eventDriven_take {s : State} (hs : s.EventDriven) (bs : List Byte) (es : List Event) :
    State.EventDriven { s with rest := bs, pend := es } := hs

/-- A step of an event-driven run completes and keeps the invariant, whatever there is to run. -/
theorem step_keeps {s : State} (hs : s.EventDriven) : ∃ t, step s = .next t ∧ t.EventDriven := by
  have ⟨⟨hwf, _⟩, _, _, hport⟩ := hs
  by_cases hst : s.st = .decode
  · obtain ⟨t, ht, hkeep, -⟩ := decodeFrame_keeps hs hst
    exact ⟨t, (step_decode hwf hport hst).trans ((s.inState_eq hst _).trans ht), hkeep⟩
  cases hrest : s.rest with
  | cons b bs =>
    rw [step_byte hwf hport hst hrest]
    exact rx_keeps b (eventDriven_take hs bs s.pend) hst
  | nil =>
    cases hpend : s.pend with
    | nil => exact ⟨s, step_idle hwf hport hst hrest hpend, hs⟩
    | cons e es =>
      have hs' : State.EventDriven { s with pend := es } := eventDriven_take hs s.rest es
      cases e with
      | reset now =>
        rw [step_reset hwf hport hst hrest hpend]
        exact execReset_keeps s.st now hs'
      | tick now bs =>
        rw [step_tick hwf hport hst hrest hpend]
        obtain ⟨t, ht, hkeep, -⟩ := tick_keeps now bs hs' hst
        exact ⟨t, ht, hkeep⟩
      | tickSteps now bs =>
        rw [step_tickSteps hwf hport hst hrest hpend]
        exact ⟨_, rfl, tmoChk_keeps (eventDriven_take (setTime_keeps now hs) bs es)⟩

/-- Settles O53: every step completes. -/
theorem eventDrivenStepAlwaysCompletes : Obligations.EventDrivenStepAlwaysCompletes := by
  intro s hs
  obtain ⟨t, ht, -⟩ := step_keeps hs
  exact ⟨t, ht⟩

/-- Settles O52: the state that the step completes in is the one that `step_keeps` gives. -/
theorem eventDrivenStepKeepsTheFramingInvariant :
    Obligations.EventDrivenStepKeepsTheFramingInvariant := by
  intro s t hs ht
  obtain ⟨u, hu, hkeep⟩ := step_keeps hs
  cases ht.symm.trans hu
  exact hkeep

end Sys2Proof.Proofs.FramingInvariant
end

section
/-! PROOFS. Markers, trailers and whole frames on the byte stream (spec/30_encoding.md section 1,
spec/42_framing_fsm.md sections 4 and 6): each of them stores its bytes one after the other and ends in
the framing state that the last one enters. -/

namespace Sys2Proof.Proofs.Delivery

open Sys2Proof Sys2Proof.Machine
open Sys2Proof.Proofs.Step Sys2Proof.Proofs.FramingInvariant
open Sys2Proof.Proofs.Framing (startMarker_fits endMarker_length)

/-! ### Storing bytes one after the other -/

/-- The state after a sequence of bytes has been stored at `len`. -/
def storeAll (bs : List Byte) (s : State) : State := bs.foldl (fun t b => t.stored b) s

@[simp] theorem storeAll_nil (s : State) : storeAll [] s = s := rfl

@[simp] theorem storeAll_cons (b : Byte) (bs : List Byte) (s : State) :
    storeAll (b :: bs) s = storeAll bs (s.stored b) := rfl

theorem storeAll_append (as bs : List Byte) (s : State) :
    storeAll (as ++ bs) s = storeAll bs (storeAll as s) := List.foldl_append

/-- Storing changes the buffer, and moves `len` past the bytes. -/
theorem storeAll_eq (bs : List Byte) (s : State) :
    storeAll bs s = { s with buf := (storeAll bs s).buf, len := s.len + bs.length } := by
  induction bs generalizing s with
  | nil => rfl
  | cons b bs ih =>
    rw [storeAll_cons, ih, List.length_cons, Nat.add_comm bs.length, ← Nat.add_assoc]
    rfl

@[simp] theorem storeAll_len (bs : List Byte) (s : State) :
    (storeAll bs s).len = s.len + bs.length := by rw [storeAll_eq]

@[simp] theorem storeAll_cfg (bs : List Byte) (s : State) : (storeAll bs s).cfg = s.cfg := by
  rw [storeAll_eq]

/-- Storing does not depend on the framing state. -/
theorem storeAll_framing (bs : List Byte) (s : State) (q : FrameState) (n : BitVec 2) :
    storeAll bs { s with st := q, trem := n } = { storeAll bs s with st := q, trem := n } := by
  induction bs generalizing s with
  | nil => rfl
  | cons b bs ih => exact ih (s.stored b)

theorem storeAll_wf (bs : List Byte) {s : State} (h : Memory.wf s.buf = true) :
    Memory.wf (storeAll bs s).buf = true := by
  induction bs generalizing s with
  | nil => exact h
  | cons b bs ih => exact ih (Memory.wf_write h s.len b)

/-- The bytes stored stand after those that were there. -/
theorem storeAll_bufSlice (bs : List Byte) {s : State} (h : Memory.wf s.buf = true) {lo : Nat}
    (hlo : lo ≤ s.len) :
    (storeAll bs s).bufSlice lo (s.len + bs.length) = s.bufSlice lo s.len ++ bs := by
  induction bs generalizing s with
  | nil => exact (List.append_nil _).symm
  | cons b bs ih =>
    have hbytes := ih (s := s.stored b) (Memory.wf_write h s.len b) (hlo.trans (Nat.le_succ _))
    have hfirst : (s.stored b).bufSlice lo (s.stored b).len = s.bufSlice lo s.len ++ [b] :=
      stored_bufSlice_succ h b hlo
    rw [hfirst, List.append_assoc] at hbytes
    rw [storeAll_cons, List.length_cons, Nat.add_comm bs.length, ← Nat.add_assoc]
    exact hbytes

/-- Every address outside the bytes stored reads as before. -/
theorem storeAll_read (bs : List Byte) {s : State} (h : Memory.wf s.buf = true) {k : Nat}
    (hk : k < s.len ∨ s.len + bs.length ≤ k) :
    (storeAll bs s).buf.read k = s.buf.read k := by
  induction bs generalizing s with
  | nil => rfl
  | cons b bs ih =>
    rw [List.length_cons] at hk
    have hrest : k < (s.stored b).len ∨ (s.stored b).len + bs.length ≤ k := by
      simp only [State.stored]
      omega
    rw [storeAll_cons, ih (Memory.wf_write h s.len b) hrest, State.stored, Memory.read_write h,
      if_neg (by omega)]

/-! ### One byte of a sequence -/

theorem st_ne_decode {s : State} {q : FrameState} (h : s.st = q) (hq : q ≠ .decode) :
    s.st ≠ .decode := h ▸ hq

/-- A byte that does not complete a frame. -/
theorem feed_cons_of_rx {s t : State} {b : Byte} {bs : List Byte} (h : s.rx b = .next t)
    (hst : t.st ≠ .decode) : s.feed (b :: bs) = t.feed bs := by
  rw [s.feed_cons, h, Outcome.andThen_next, t.settle_other hst, Outcome.andThen_next]

/-- The byte that completes a frame, as the last one. -/
theorem feed_singleton_of_rx_decode {s t : State} {b : Byte} (h : s.rx b = .next t)
    (hst : t.st = .decode) : s.feed [b] = t.decodeFrame := by
  rw [s.feed_cons, h, Outcome.andThen_next, t.settle_decode hst]
  cases t.decodeFrame <;> rfl

/-! ### START, END and the trailer -/

/-- The bytes of START that are still missing are matched one by one (R151). -/
theorem feed_start {pre bs : List Byte} {s : State} (hst : s.st = .awaitStart)
    (hmark : s.cfg.startMarker = pre ++ bs) (hlen : s.len = pre.length)
    (hcap : s.cfg.startMarker.length ≤ s.cfg.capacity) (hne : bs ≠ []) :
    s.feed bs = .next { storeAll bs s with st := .accumulateBody } := by
  induction bs generalizing pre s with
  | nil => exact absurd rfl hne
  | cons b bs ih =>
    have hlength : s.cfg.startMarker.length = s.len + 1 + bs.length := by
      rw [hmark, List.length_append, List.length_cons, hlen]
      omega
    have hbyte : s.cfg.startMarker[s.len]? = some b := by
      rw [hmark, hlen, List.getElem?_append_right le_rfl, Nat.sub_self, List.getElem?_cons_zero]
    have hroom : s.len < s.cfg.capacity := by omega
    cases bs with
    | nil =>
      rw [feed_cons_of_rx ((s.rx_awaitStart b hst).trans (s.rxAs_last hroom hbyte hlength.symm))
        (st_ne_decode (q := .accumulateBody) rfl (by decide))]
      rfl
    | cons c cs =>
      rw [List.length_cons] at hlength
      have hmore : (s.stored b).st ≠ .decode := st_ne_decode hst (by decide)
      have hrx : s.rx b = .next (s.stored b) :=
        (s.rx_awaitStart b hst).trans (s.rxAs_match hroom hbyte (by omega))
      rw [feed_cons_of_rx hrx hmore, storeAll_cons]
      refine ih (pre := pre ++ [b]) hst ?_ ?_ hcap (List.cons_ne_nil c cs)
      · rw [List.append_assoc]
        exact hmark
      · rw [List.length_append, ← hlen]
        rfl

/-- Bytes of a body, END matched after the last of them and after no other (R153). -/
theorem feed_body_end {bs : List Byte} {s : State} (hst : s.st = .accumulateBody) (hne : bs ≠ [])
    (hroom : s.len + bs.length ≤ s.cfg.capacity - s.cfg.reserve)
    (hnot : ∀ k, 0 < k → k < bs.length → ¬ (storeAll (bs.take k) s).endMatched = true)
    (hend : (storeAll bs s).endMatched = true) :
    s.feed bs = .next
      { storeAll bs s with st := .readTrailer, trem := BitVec.ofNat 2 s.cfg.trailerLen } := by
  induction bs generalizing s with
  | nil => exact absurd rfl hne
  | cons b bs ih =>
    rw [List.length_cons] at hroom
    have hrx := s.rx_accumulateBody b hst
    cases bs with
    | nil =>
      rw [s.rxAb_end (by omega) hend] at hrx
      rw [feed_cons_of_rx hrx (st_ne_decode (q := .readTrailer) rfl (by decide))]
      rfl
    | cons c cs =>
      have hmore : (s.stored b).st ≠ .decode := st_ne_decode hst (by decide)
      have hfirst : ¬ (s.stored b).endMatched = true :=
        hnot 1 one_pos (by rw [List.length_cons, List.length_cons]; omega)
      rw [s.rxAb_body (by omega) hfirst] at hrx
      rw [feed_cons_of_rx hrx hmore]
      refine ih hst (List.cons_ne_nil c cs) ?_ (fun k hk hlt => ?_) hend
      · simp only [State.stored]
        omega
      · exact hnot (k + 1) k.succ_pos (by rw [List.length_cons]; omega)

/-- The state that holds a complete frame, DECODE due (R156). -/
def completed (bs : List Byte) (s : State) : State :=
  { storeAll bs s with st := .decode, trem := 0 }

theorem completed_framing (bs : List Byte) (s : State) (q : FrameState) (n : BitVec 2) :
    completed bs { s with st := q, trem := n } = completed bs s := by
  rw [completed, storeAll_framing, completed]

theorem completed_eq (bs : List Byte) (s : State) :
    completed bs s =
      { s with
        buf := (completed bs s).buf, len := s.len + bs.length, trem := 0, st := .decode } := by
  rw [completed, storeAll_eq]

/-- The trailer bytes outstanding complete the frame, and DECODE runs on it (R156, R160). -/
theorem feed_trailer {bs : List Byte} {s : State} (hst : s.st = .readTrailer) (hne : bs ≠ [])
    (htrem : s.trem.toNat = bs.length) (hroom : s.len + bs.length ≤ s.cfg.capacity) :
    s.feed bs = (completed bs s).decodeFrame := by
  induction bs generalizing s with
  | nil => exact absurd rfl hne
  | cons b bs ih =>
    rw [List.length_cons] at htrem hroom
    have hrx := s.rx_readTrailer b hst
    cases bs with
    | nil =>
      have h1 : s.trem = 1 := BitVec.eq_of_toNat_eq htrem
      rw [s.rxRt_last (by omega) h1] at hrx
      rw [feed_singleton_of_rx_decode hrx rfl]
      rfl
    | cons c cs =>
      have hne1 : s.trem ≠ 1 := fun h => by
        rw [h, List.length_cons] at htrem
        have hone : 1 = cs.length + 1 + 1 := htrem
        omega
      have hdown : (s.trem - 1).toNat = (c :: cs).length := by
        rw [BitVec.toNat_sub_of_le (by rw [BitVec.le_def, htrem]; exact Nat.le_add_left _ _), htrem]
        rfl
      rw [s.rxRt_more (by omega) hne1] at hrx
      have hcap : (s.stored b).len + (c :: cs).length ≤ s.cfg.capacity := by
        simp only [State.stored]
        omega
      rw [feed_cons_of_rx hrx (st_ne_decode hst (by decide)),
        ih (s := { s.stored b with trem := s.trem - 1 }) hst (List.cons_ne_nil c cs) hdown hcap]
      exact congrArg State.decodeFrame
        (completed_framing (c :: cs) (s.stored b) (s.stored b).st (s.trem - 1))

/-! ### The markers and the trailer as rows -/

theorem exec_startMark {s : State} (h : s.st ≠ .decode) :
    exec .startMark s = s.feed s.cfg.startMarker := s.deliver_other _ h

theorem exec_endMark {s : State} (h : s.st ≠ .decode) :
    exec .endMark s = s.feed s.cfg.endMarker := s.deliver_other _ h

theorem exec_trailer {s : State} (fill lo hi : Byte) (h : s.st ≠ .decode) :
    exec (.trailer fill lo hi) s = s.feed [fill, lo, hi] := s.deliver_other _ h

/-- START arriving with nothing matched. -/
theorem feed_startMarker {s : State} (hwf : s.cfg.wf = true) (hst : s.st = .awaitStart)
    (hlen : s.len = 0) :
    s.feed s.cfg.startMarker =
      .next { storeAll s.cfg.startMarker s with st := .accumulateBody } := by
  obtain ⟨hstart, hcap⟩ := startMarker_fits hwf
  exact feed_start (pre := []) hst rfl hlen (hstart.trans_le hcap)
    (List.ne_nil_of_length_pos (by omega))

/-- Settles O48: the eight bytes of START are stored from address 0 on. -/
theorem startMarkerEntersAccumulateBody : Obligations.StartMarkerEntersAccumulateBody := by
  intro s ⟨hwf, hbuf, _⟩ hst hlen
  obtain ⟨hstart, -⟩ := startMarker_fits hwf
  have hslice := storeAll_bufSlice s.cfg.startMarker hbuf (Nat.zero_le s.len)
  rw [hlen, hstart] at hslice
  refine ⟨_, (exec_startMark (st_ne_decode hst (by decide))).trans (feed_startMarker hwf hst hlen),
    ?_, hslice, fun k hk => storeAll_read _ hbuf (.inr (by omega))⟩
  rw [storeAll_eq, hlen, hstart]

/-- No proper beginning of END ends like END: END's last byte is none of its others. -/
theorem endBytes_no_overlap : ∀ k < 5, 0 < k → endBytes.drop (5 - k) ≠ endBytes.take k := by
  decide

/-- Settles O49: the five bytes of END are stored at `len`; before the last of them the END test fails,
because the bytes of END stored so far are not a suffix of END. -/
theorem endMarkerEntersReadTrailer : Obligations.EndMarkerEntersReadTrailer := by
  intro s ⟨hwf, hbuf, _⟩ ⟨_, hmark, htrailer⟩ hst hlen hroom
  have hslice := storeAll_bufSlice endBytes hbuf (le_refl s.len)
  have hempty : s.bufSlice s.len s.len = [] := List.length_eq_zero_iff.1 (by simp)
  have hsuffix : ∀ k ≤ 5, (storeAll (endBytes.take k) s).bufSlice (s.len + k - 5) (s.len + k) =
      s.bufSlice (s.len + k - 5) s.len ++ endBytes.take k := fun k hk => by
    have h := storeAll_bufSlice (endBytes.take k) hbuf (show s.len + k - 5 ≤ s.len by omega)
    rwa [List.length_take_of_le hk] at h
  have hmatched : ∀ k ≤ 5, ((storeAll (endBytes.take k) s).endMatched = true ↔
      s.bufSlice (s.len + k - 5) s.len ++ endBytes.take k = endBytes) := fun k hk => by
    have hfive : endBytes.length = 5 := rfl
    rw [State.endMatched_iff, storeAll_cfg, hmark, storeAll_len, List.length_take_of_le hk, hfive,
      hsuffix k hk]
    exact and_iff_right (by omega)
  have hfeed : s.feed endBytes = .next
      { storeAll endBytes s with st := .readTrailer, trem := BitVec.ofNat 2 s.cfg.trailerLen } := by
    refine feed_body_end hst (by decide) hroom (fun k hk hlt hm => ?_) ((hmatched 5 le_rfl).2 ?_)
    · have heq := (hmatched k (Nat.le_of_lt hlt)).1 hm
      have hlength : (s.bufSlice (s.len + k - 5) s.len).length = 5 - k := by
        rw [State.bufSlice_length]
        omega
      have hdrop := List.drop_left' (l₂ := endBytes.take k) hlength
      rw [heq] at hdrop
      exact endBytes_no_overlap k hlt hk hdrop
    · rw [show s.len + 5 - 5 = s.len by omega, hempty]
      rfl
  have hexec := exec_endMark (st_ne_decode hst (by decide))
  rw [hmark, hfeed] at hexec
  refine ⟨_, hexec, ?_, ?_, fun k hk => storeAll_read endBytes hbuf hk⟩
  · rw [storeAll_eq, htrailer]
    rfl
  · rw [hempty] at hslice
    exact hslice

/-- Settles O50: the three bytes are stored at `len`, and DECODE runs on the state that holds them. -/
theorem trailerCompletesTheFrameAndDecodes : Obligations.TrailerCompletesTheFrameAndDecodes := by
  intro s fill lo hi ⟨_, hbuf, _⟩ hst htrem hcap
  have hslice := storeAll_bufSlice [fill, lo, hi] hbuf (le_refl s.len)
  have hempty : s.bufSlice s.len s.len = [] := List.length_eq_zero_iff.1 (by simp)
  have hfeed := feed_trailer (bs := [fill, lo, hi]) hst (List.cons_ne_nil _ _)
    (by rw [htrem]; rfl) hcap
  have hu := completed_eq [fill, lo, hi] s
  obtain ⟨t, ht⟩ := decodeFrame_completes (s := completed [fill, lo, hi] s)
    (by rw [hu]; exact Nat.le_add_left 2 (s.len + 1)) (by rw [hu]; exact hcap)
  rw [ht] at hfeed
  refine ⟨completed [fill, lo, hi] s, t,
    (exec_trailer fill lo hi (st_ne_decode hst (by decide))).trans hfeed,
    (State.inState_eq (completed [fill, lo, hi] s) rfl _).trans ht, hu, ?_,
    fun k hk => storeAll_read [fill, lo, hi] hbuf hk⟩
  rw [hempty] at hslice
  exact hslice

/-! ### START after a partial START (R152 c, R280) -/

/-- The match count after one byte in AwaitStart (R151). -/
def nextMatch (n : Nat) (b : Byte) : Nat := if startBytes[n]? = some b then n + 1 else 0

/-- The match count after a sequence of bytes that does not complete START; none where it does. -/
def scanStart : Nat → List Byte → Option Nat
  | n, [] => some n
  | n, b :: bs => if nextMatch n b = 8 then none else scanStart (nextMatch n b) bs

theorem nextMatch_le {n : Nat} (hn : n ≤ 7) (b : Byte) : nextMatch n b ≤ 8 := by
  rw [nextMatch]
  split_ifs <;> omega

/-- A byte that does not complete START moves the match count only, whatever stands in the buffer. -/
theorem rx_awaitStart_nextMatch {s : State} {b : Byte} (hst : s.st = .awaitStart)
    (hmark : s.cfg.startMarker = startBytes) (hroom : s.len < s.cfg.capacity)
    (hnot : nextMatch s.len b ≠ 8) :
    ∃ m, s.rx b = .next { s with buf := m, len := nextMatch s.len b } := by
  refine ⟨s.buf.write s.len b, ?_⟩
  rw [s.rx_awaitStart b hst]
  by_cases hb : startBytes[s.len]? = some b
  · have hnext : nextMatch s.len b = s.len + 1 := if_pos hb
    rw [hnext] at hnot ⊢
    exact s.rxAs_match hroom (hmark ▸ hb) (by rw [hmark]; exact hnot)
  · have hnext : nextMatch s.len b = 0 := if_neg hb
    rw [hnext]
    exact s.rxAs_miss hroom (hmark ▸ hb)

theorem feed_scanStart {bs : List Byte} {s : State} {n : Nat} (hst : s.st = .awaitStart)
    (hmark : s.cfg.startMarker = startBytes) (hcap : 8 ≤ s.cfg.capacity) (hlen : s.len ≤ 7)
    (hscan : scanStart s.len bs = some n) :
    ∃ m, s.feed bs = .next { s with buf := m, len := n } := by
  induction bs generalizing s with
  | nil =>
    cases hscan
    exact ⟨s.buf, rfl⟩
  | cons b bs ih =>
    rw [scanStart] at hscan
    split_ifs at hscan with hnot
    have hle := nextMatch_le hlen b
    obtain ⟨m, hrx⟩ := rx_awaitStart_nextMatch hst hmark (by omega) hnot
    obtain ⟨m', hfeed⟩ := ih (s := { s with buf := m, len := nextMatch s.len b }) hst hmark hcap
      (by simp only; omega) hscan
    exact ⟨m', (feed_cons_of_rx hrx (st_ne_decode hst (by decide))).trans hfeed⟩

/-- From every partial match START's bytes lead back to a count of 0, and never to 8. -/
theorem scanStart_partial : ∀ n ≤ 7, 1 ≤ n → scanStart n startBytes = some 0 := by decide

/-- Settles O25: only the match count and the buffer change, and the count ends at 0. -/
theorem startRightAfterPartialStartIsMissed : Obligations.StartRightAfterPartialStartIsMissed := by
  intro s ⟨hwf, _⟩ ⟨hmark, _⟩ hst hpos hlen
  obtain ⟨-, hcap⟩ := startMarker_fits hwf
  obtain ⟨m, hfeed⟩ := feed_scanStart hst hmark hcap hlen (scanStart_partial s.len hlen hpos)
  exact ⟨_, (exec_startMark (st_ne_decode hst (by decide))).trans (hmark ▸ hfeed), rfl⟩

end Sys2Proof.Proofs.Delivery
end

section
/-! PROOFS. A whole frame in one tick (spec/42_framing_fsm.md section 6, R162): START, a body, END and
the trailer are stored one after the other, and one DECODE runs on exactly these bytes. -/

namespace Sys2Proof.Proofs.WholeFrame

open Sys2Proof Sys2Proof.Machine
open Sys2Proof.Proofs.FramingInvariant Sys2Proof.Proofs.Delivery
open Sys2Proof.Proofs.Framing (startMarker_fits endMarker_length)

/-! ### The END test on the bytes stored from address 0 on -/

theorem bufSlice_eq_drop (s : State) (lo hi : Nat) :
    s.bufSlice lo hi = (s.bufSlice 0 hi).drop lo := by
  refine List.ext_getElem (by simp) fun k hk _ => ?_
  rw [List.getElem_drop, State.bufSlice_getElem, State.bufSlice_getElem, Nat.zero_add]

/-- Storing from an empty buffer on, the buffer holds exactly the bytes stored. -/
theorem storeAll_holds (bs : List Byte) {s : State} (h : Memory.wf s.buf = true) (hlen : s.len = 0) :
    (storeAll bs s).Holds bs := by
  have hslice := storeAll_bufSlice bs h (Nat.zero_le s.len)
  have hempty : s.bufSlice 0 s.len = [] := by rw [hlen]; rfl
  rw [hempty, List.nil_append] at hslice
  refine ⟨by rw [storeAll_len, hlen, Nat.zero_add], ?_⟩
  rw [storeAll_len]
  exact hslice

/-- The END test compares the last bytes stored. -/
theorem storeAll_endMatched_iff (bs : List Byte) {s : State} (h : Memory.wf s.buf = true)
    (hlen : s.len = 0) : (storeAll bs s).endMatched = true ↔
      s.cfg.endMarker.length ≤ bs.length ∧
        bs.drop (bs.length - s.cfg.endMarker.length) = s.cfg.endMarker := by
  obtain ⟨hlength, hbytes⟩ := storeAll_holds bs h hlen
  rw [State.endMatched_iff, bufSlice_eq_drop, hbytes, hlength, storeAll_cfg]

/-! ### The frame, part by part -/

/-- A sane state that waits for START. -/
structure Waiting (s : State) : Prop where
  sane : s.Sane
  st : s.st = .awaitStart
  len : s.len = 0

/-- A body with END nowhere but at its end, and a trailer, that fit the buffer (R85, R90). -/
structure FrameFits (c : Config) (body tr : List Byte) : Prop where
  endOnly : EndOnlyAtEnd c body
  trailer : tr.length = c.trailerLen
  fits : (frameHead c body ++ tr).length ≤ c.capacity

theorem frameHead_eq (c : Config) (body : List Byte) :
    frameHead c body = c.startMarker ++ (body ++ c.endMarker) := List.append_assoc _ _ _

/-- The state after START. -/
def afterStart (s : State) : State :=
  { storeAll s.cfg.startMarker s with st := .accumulateBody }

theorem afterStart_cfg (s : State) : (afterStart s).cfg = s.cfg := storeAll_cfg _ s

/-- The bytes stored after START stand behind START, whatever the framing state. -/
theorem storeAll_afterStart (bs : List Byte) (s : State) :
    storeAll bs (afterStart s) =
      { storeAll (s.cfg.startMarker ++ bs) s with st := .accumulateBody } := by
  have hframing := storeAll_framing bs (storeAll s.cfg.startMarker s) .accumulateBody s.trem
  have htrem : ∀ as : List Byte, (storeAll as s).trem = s.trem := fun as => by rw [storeAll_eq]
  rw [← storeAll_append, ← htrem (s.cfg.startMarker ++ bs)] at hframing
  rw [← hframing, htrem, ← htrem s.cfg.startMarker]
  rfl

/-- The body and END lead to ReadTrailer: END is matched at its own end, and not before. -/
theorem feed_bodyEnd {s : State} {body tr : List Byte} (hs : Waiting s)
    (hf : FrameFits s.cfg body tr) :
    (afterStart s).feed (body ++ s.cfg.endMarker) = .next
      { storeAll (body ++ s.cfg.endMarker) (afterStart s) with
        st := .readTrailer, trem := BitVec.ofNat 2 s.cfg.trailerLen } := by
  obtain ⟨⟨hwf, hbuf, -⟩, -, hlen⟩ := hs
  obtain ⟨hendOnly, htrailer, hfits⟩ := hf
  obtain ⟨-, hreserve, -⟩ := s.cfg.wf_iff.1 hwf
  have hfive := endMarker_length hwf
  have htest : ∀ bs, (storeAll bs (afterStart s)).endMatched = true ↔
      s.cfg.endMarker.length ≤ (s.cfg.startMarker ++ bs).length ∧
        (s.cfg.startMarker ++ bs).drop ((s.cfg.startMarker ++ bs).length - s.cfg.endMarker.length) =
          s.cfg.endMarker := fun bs => by
    rw [storeAll_afterStart]
    exact storeAll_endMatched_iff _ hbuf hlen
  rw [frameHead_eq, List.length_append, List.length_append] at hfits
  refine (feed_body_end rfl ?_ ?_ (fun k hk hlt hm => ?_) ((htest _).2 ⟨?_, ?_⟩)).trans
    (by rw [afterStart_cfg])
  · exact List.append_ne_nil_of_right_ne_nil _ (List.ne_nil_of_length_pos (by omega))
  · have hstored : (afterStart s).len = s.len + s.cfg.startMarker.length := storeAll_len _ s
    rw [hstored, afterStart_cfg, hreserve, hlen]
    omega
  · obtain ⟨-, hend⟩ := (htest _).1 hm
    have htake : (frameHead s.cfg body).take (s.cfg.startMarker.length + k) =
        s.cfg.startMarker ++ (body ++ s.cfg.endMarker).take k := by
      rw [frameHead_eq, List.take_length_add_append]
    have hlength : (s.cfg.startMarker ++ (body ++ s.cfg.endMarker).take k).length =
        s.cfg.startMarker.length + k := by
      rw [List.length_append, List.length_take_of_le (Nat.le_of_lt hlt)]
    rw [hlength, ← htake] at hend
    refine hendOnly _ ?_ hend
    rw [frameHead_eq, List.length_append]
    omega
  · rw [List.length_append, List.length_append]
    omega
  · rw [← List.append_assoc]
    exact List.drop_left' (by simp only [List.length_append]; omega)

/-- The frame's bytes lead to the state that holds them all, where DECODE runs. -/
theorem feed_frame {s : State} {body tr : List Byte} (hs : Waiting s)
    (hf : FrameFits s.cfg body tr) :
    s.feed (frameHead s.cfg body ++ tr) =
      (completed (frameHead s.cfg body ++ tr) s).decodeFrame := by
  obtain ⟨⟨hwf, -⟩, hst, hlen⟩ := id hs
  obtain ⟨-, htrailer, hfits⟩ := id hf
  obtain ⟨-, -, -, -, -, hpos, hle, -⟩ := s.cfg.wf_iff.1 hwf
  have hstart : s.feed s.cfg.startMarker = .next (afterStart s) := feed_startMarker hwf hst hlen
  have htrem : (BitVec.ofNat 2 s.cfg.trailerLen).toNat = tr.length := by
    rw [BitVec.toNat_ofNat, htrailer]
    exact Nat.mod_eq_of_lt (by omega)
  have hroom : (storeAll (body ++ s.cfg.endMarker) (afterStart s)).len + tr.length ≤
      (afterStart s).cfg.capacity := by
    rw [storeAll_afterStart, afterStart_cfg]
    simp only [storeAll_len, hlen, Nat.zero_add]
    rwa [← frameHead_eq, ← List.length_append]
  have hdecode := feed_trailer (bs := tr) (s :=
    { storeAll (body ++ s.cfg.endMarker) (afterStart s) with
      st := .readTrailer, trem := BitVec.ofNat 2 s.cfg.trailerLen }) rfl
    (List.ne_nil_of_length_pos (by omega)) htrem (by simpa only [storeAll_cfg] using hroom)
  rw [State.feed_append, frameHead_eq, State.feed_append, hstart, Outcome.andThen_next,
    feed_bodyEnd hs hf, Outcome.andThen_next, hdecode, completed_framing, storeAll_afterStart]
  refine congrArg State.decodeFrame ((completed_framing tr
    (storeAll (s.cfg.startMarker ++ (body ++ s.cfg.endMarker)) s) .accumulateBody _).trans ?_)
  rw [completed, completed, storeAll_append (_ ++ _) tr]

/-! ### The tick -/

theorem Waiting.setTime {s : State} (h : Waiting s) (now : Time) : Waiting (s.setTime now) :=
  ⟨(Updates.Update.sampleTime s now).sane h.sane, h.st, h.len⟩

/-- With no timeout due, the tick is one DECODE on the state that holds the frame. -/
theorem exec_tick_frame {s : State} {now : Time} {body tr : List Byte} (ss : FrameState)
    (hs : Waiting s) (hf : FrameFits s.cfg body tr)
    (hquiet : elapsedOf s.cfg.timeWidth now s.tlast ≤ s.cfg.timeoutT) :
    exec (.tick ss now (frameHead s.cfg body ++ tr)) s =
      (completed (frameHead s.cfg body ++ tr) (s.setTime now)).decodeFrame := by
  have hchecked : (s.setTime now).tmoChk = s.setTime now :=
    (s.setTime now).tmoChk_quiet (by rwa [s.setTime_tnow, s.setTime_cfg, elapsedOf_timeOf])
  have hst : (s.setTime now).st ≠ .decode := st_ne_decode hs.st (by decide)
  rw [exec, execTick, State.tick, hchecked, State.deliver_other _ _ hst]
  exact feed_frame (hs.setTime now) hf

/-- The completed frame is within the buffer, so DECODE completes and is back in AwaitStart. -/
theorem decodeFrame_completed {s : State} {body tr : List Byte} (hs : Waiting s)
    (hf : FrameFits s.cfg body tr) :
    ∃ t, (completed (frameHead s.cfg body ++ tr) s).decodeFrame = .next t ∧
      t.st = .awaitStart ∧ t.len = 0 := by
  obtain ⟨⟨hwf, -⟩, -, hlen⟩ := hs
  obtain ⟨hstart, -⟩ := startMarker_fits hwf
  have hlength : (completed (frameHead s.cfg body ++ tr) s).len =
      (frameHead s.cfg body ++ tr).length := by
    rw [completed_eq, hlen]
    exact Nat.zero_add _
  have hcfg : (completed (frameHead s.cfg body ++ tr) s).cfg = s.cfg := storeAll_cfg _ s
  have htwo : 2 ≤ (frameHead s.cfg body ++ tr).length := by
    rw [frameHead_eq, List.length_append, List.length_append]
    omega
  obtain ⟨t, ht⟩ := decodeFrame_completes (hlength ▸ htwo) (by rw [hlength, hcfg]; exact hf.fits)
  exact ⟨t, ht, decodeFrame_fresh ht⟩

/-- Settles O56: the state that holds the frame is the waiting one with the frame's bytes stored. -/
theorem wellFormedFrameIsDecodedOnceOnItsOwnBytes :
    Obligations.WellFormedFrameIsDecodedOnceOnItsOwnBytes := by
  intro s ss now body tr hsane hst hlen hquiet hendOnly htrailer hfits
  have hs : Waiting s := ⟨hsane, hst, hlen⟩
  have hf : FrameFits s.cfg body tr := ⟨hendOnly, htrailer, hfits⟩
  have hu := completed_eq (frameHead s.cfg body ++ tr) (s.setTime now)
  obtain ⟨t, ht, hfresh⟩ := decodeFrame_completed (hs.setTime now) hf
  refine ⟨completed (frameHead s.cfg body ++ tr) (s.setTime now), t,
    (exec_tick_frame ss hs hf hquiet).trans ht,
    (State.inState_eq (completed (frameHead s.cfg body ++ tr) (s.setTime now)) rfl _).trans ht,
    ?_, ?_, hfresh⟩
  · obtain ⟨-, hbuf, -⟩ := (hs.setTime now).sane
    exact storeAll_holds _ hbuf hlen
  · rw [hu]
    rfl

end Sys2Proof.Proofs.WholeFrame
end

section
/-! PROOFS. What the decoder and the publisher neither read nor write (their context), and two runs of
the framing machine side by side: DECODE as its four operations, TICK as its fine-grained steps (R9), and
a tick cut in two (R164). -/

namespace Sys2Proof.Proofs.Context

open Sys2Proof Sys2Proof.Machine
open Sys2Proof.Proofs.Updates Sys2Proof.Proofs.Step Sys2Proof.Proofs.FramingInvariant
open Sys2Proof.Proofs.MetricDecoder (mdAll_buf)
open Sys2Proof.Proofs.Publisher (pubWrite_eq)
open Sys2Proof.Proofs.ChecksumOps (exec_crcVerify)
open Sys2Proof.Proofs.Checksum (crcVerify_flag_iff)
open Sys2Proof.Proofs.DecodeFrame (exec_decode_of_decode)

/-! ### The context of MD.ALL and PUB.ALL -/

/-- The state `s` with the elements of `c` that neither the decoder nor the publisher reads or writes. -/
def inContext (c s : State) : State :=
  { s with
    st := c.st, trem := c.trem, tlast := c.tlast, tnow := c.tnow, crc := c.crc, ret := c.ret,
    rest := c.rest, pend := c.pend, port := c.port }

/-- The context exchanged under a result. -/
def mapContext {α : Type} (c : State) (r : Res α × State) : Res α × State := (r.1, inContext c r.2)

theorem inContext_self (s : State) : inContext s s = s := rfl

theorem onOk_mapContext {α β : Type} {c : State} {r : Res α × State} {f : α → State → Res β × State}
    (hf : ∀ a t, f a (inContext c t) = mapContext c (f a t)) :
    onOk (mapContext c r) f = mapContext c (onOk r f) := by
  obtain ⟨a | k, t⟩ := r
  · exact hf a t
  · rfl

theorem atCursor_inContext {α : Type} {c : State} {f : Byte → State → Res α × State}
    (hf : ∀ tag t, f tag (inContext c t) = mapContext c (f tag t)) (s : State) :
    atCursor f (inContext c s) = mapContext c (atCursor f s) := by
  by_cases hcur : s.cur < s.len
  · rw [atCursor_in s f hcur, atCursor_in (inContext c s) f hcur]
    exact hf _ s
  · rw [atCursor_out s f (Nat.not_lt.1 hcur), atCursor_out (inContext c s) f (Nat.not_lt.1 hcur)]
    rfl

theorem checkTag_inContext (c : State) (tag : Byte) (s : State) :
    checkTag tag (inContext c s) = mapContext c (checkTag tag s) := by
  rw [checkTag, checkTag]
  split_ifs <;> rfl

theorem skipField_inContext (c : State) (tag : Byte) (s : State) :
    skipField tag (inContext c s) = mapContext c (skipField tag s) := by
  rw [skipField, checkTag_inContext]
  exact onOk_mapContext fun _ _ => rfl

theorem byteField_inContext (c : State) (tag : Byte) (s : State) :
    byteField tag (inContext c s) = mapContext c (byteField tag s) := by
  rw [byteField, checkTag_inContext]
  refine onOk_mapContext fun l t => ?_
  have hrd : (inContext c t).rd ((inContext c t).cur + 1) = t.rd (t.cur + 1) := rfl
  rw [hrd]
  cases t.rd (t.cur + 1) <;> rfl

theorem accLoop_inContext (c : State) (n k : Nat) (s : State) :
    accLoop n k (inContext c s) = mapContext c (accLoop n k s) := by
  induction n generalizing k s with
  | zero => rfl
  | succ n ih =>
    have hrd : (inContext c s).rd ((inContext c s).cur + k) = s.rd (s.cur + k) := rfl
    rw [accLoop, accLoop, hrd]
    cases s.rd (s.cur + k) with
    | ok b => exact ih (k + 1) { s with acc := accPush s.acc b }
    | fail e => rfl

theorem valueField_inContext (c : State) (tag : Byte) (s : State) :
    valueField tag (inContext c s) = mapContext c (valueField tag s) := by
  rw [valueField, checkTag_inContext]
  refine onOk_mapContext fun l t => ?_
  have hloop := accLoop_inContext c (l - 1) 0 { t with cur := t.cur + 1, acc := 0 }
  exact (congrArg (onOk · _) hloop).trans (onOk_mapContext fun _ _ => rfl)

theorem fiveFields_inContext (c s : State) :
    fiveFields (inContext c s) = mapContext c (fiveFields s) := by
  rw [fiveFields, atCursor_inContext (skipField_inContext c)]
  refine onOk_mapContext fun _ t => ?_
  rw [atCursor_inContext (skipField_inContext c)]
  refine onOk_mapContext fun _ t => ?_
  rw [atCursor_inContext (byteField_inContext c)]
  refine onOk_mapContext fun _ t => ?_
  rw [atCursor_inContext (byteField_inContext c)]
  refine onOk_mapContext fun _ t => ?_
  rw [atCursor_inContext (valueField_inContext c)]
  exact onOk_mapContext fun _ _ => rfl

theorem mdDecode_inContext (c s : State) (i : Nat) :
    (inContext c s).mdDecode i = inContext c (s.mdDecode i) := by
  have hfind : (inContext c s).findPattern ((inContext c s).pattern i) =
      s.findPattern (s.pattern i) := rfl
  rw [State.mdDecode, State.mdDecode, hfind]
  cases s.findPattern (s.pattern i) with
  | none => rfl
  | some o =>
    have hfields : fiveFields { inContext c s with cur := o + ((inContext c s).pattern i).length } =
        mapContext c (fiveFields { s with cur := o + (s.pattern i).length }) :=
      fiveFields_inContext c { s with cur := o + (s.pattern i).length }
    obtain ⟨-, hkinds⟩ := fiveFields_frame { s with cur := o + (s.pattern i).length }
    simp only
    rw [hfields]
    rcases hr : fiveFields { s with cur := o + (s.pattern i).length } with ⟨v | k, t⟩
    · rfl
    · rw [hr] at hkinds
      rcases hkinds with rfl | rfl <;> rfl

theorem pubWrite_inContext (c s : State) (i : Nat) :
    (inContext c s).pubWrite i = inContext c (s.pubWrite i) := by
  rw [pubWrite_eq, pubWrite_eq]
  rfl

/-- Decoding and publishing in another context is the same in that context. -/
theorem mdAll_pubAll_inContext (c s : State) :
    (inContext c s).mdAll.pubAll = inContext c s.mdAll.pubAll := by
  have hmd : (inContext c s).mdAll = inContext c s.mdAll :=
    List.foldl_hom (inContext c) fun t i => mdDecode_inContext c t i
  rw [hmd]
  exact List.foldl_hom (inContext c) fun t i => pubWrite_inContext c t i

/-- They leave their own context. -/
theorem mdAll_pubAll_context (s : State) : inContext s s.mdAll.pubAll = s.mdAll.pubAll :=
  (mdAll_pubAll_inContext s s).symm

theorem mdAll_pubAll_buf (s : State) : s.mdAll.pubAll.buf = s.buf :=
  (s.mdAll.pubAll_keeps (fun t => t.buf = s.mdAll.buf)
    (fun t i h => (by rw [pubWrite_eq] : (t.pubWrite i).buf = t.buf).trans h) rfl).trans (mdAll_buf s)

/-! ### DECODE -/

/-- Settles O28: the context holds `trem` and `tnow`, and ENTER.AS writes the rest. -/
theorem decodeAlwaysEndsInAwaitStart : Obligations.DecodeAlwaysEndsInAwaitStart := by
  intro s t h
  have hdecode := (eq_of_inState_eq_next h).2
  obtain ⟨es, hout, -⟩ := Reaches.emits (reaches_decodeFrame hdecode)
  obtain ⟨-, -, ⟨-, rfl⟩ | ⟨-, rfl⟩⟩ := s.decodeFrame_cases hdecode
  · exact ⟨rfl, rfl, rfl, rfl, rfl, rfl, es, hout⟩
  · have hcontext := mdAll_pubAll_context s.crcVerify.2
    have htnow : s.crcVerify.2.mdAll.pubAll.tnow = s.tnow := by rw [← hcontext]; rfl
    have htrem : s.crcVerify.2.mdAll.pubAll.trem = s.trem := by rw [← hcontext]; rfl
    exact ⟨rfl, rfl, htnow, htnow, mdAll_pubAll_buf _, htrem, es, hout⟩

theorem mdAll_pubAll_ret (s : State) : s.mdAll.pubAll.ret = s.ret := by
  rw [← mdAll_pubAll_context]
  rfl

/-- MD.ALL, PUB.ALL and ENTER.AS neither read nor write the result latch. -/
theorem latch_mdAll_pubAll_enterAs (s : State) (r : OpResult) :
    (s.latch r).mdAll.pubAll.enterAs = s.mdAll.pubAll.enterAs.latch r := by
  have hlatch : (s.latch r).mdAll.pubAll = inContext (s.latch r) s.mdAll.pubAll :=
    mdAll_pubAll_inContext (s.latch r) s
  rw [hlatch, ← mdAll_pubAll_context s]
  rfl

/-- Settles O27: DECODE runs the four operations but for CRC.VERIFY's result latch, which the three
after it do not read. -/
theorem decodeOfValidFrameIsDecodePublishEnter :
    Obligations.DecodeOfValidFrameIsDecodePublishEnter := by
  intro s hst hlen hcap hvalid
  have hflag := (crcVerify_flag_iff s).2 hvalid
  have hverify : exec .crcVerify s = .next (s.crcVerify.2.latch (.flag s.crcVerify.1)) :=
    execCrcVerify_eq s hlen hcap
  have hall : exec .mdAll (s.crcVerify.2.latch (.flag s.crcVerify.1)) =
      .next (s.crcVerify.2.latch (.flag s.crcVerify.1)).mdAll := execMdAll_eq _ hcap
  refine ⟨s.crcVerify.2.mdAll.pubAll.enterAs,
    (s.crcVerify.2.latch (.flag s.crcVerify.1)).mdAll.pubAll.enterAs, ?_, ?_, ?_⟩
  · exact (exec_decode_of_decode hst).trans (s.decodeFrame_valid hlen hcap hflag)
  · rw [execAll, hverify, Outcome.andThen_next, execAll, hall, Outcome.andThen_next]
    rfl
  · have hret : s.crcVerify.2.mdAll.pubAll.ret = s.ret := mdAll_pubAll_ret s.crcVerify.2
    rw [latch_mdAll_pubAll_enterAs, ← hret]
    rfl

/-! ### Two runs side by side -/

/-- Two outcomes of the same kind, related where they are next states. -/
inductive Lift (R : State → State → Prop) : Outcome → Outcome → Prop
  | next {t t' : State} : R t t' → Lift R (.next t) (.next t')
  | fault (r : Fault) : Lift R (.fault r) (.fault r)
  | refused (r : Refusal) : Lift R (.refused r) (.refused r)

theorem Lift.andThen {R R' : State → State → Prop} {o o' : Outcome} {f f' : State → Outcome}
    (h : Lift R o o') (hf : ∀ t t', R t t' → Lift R' (f t) (f' t')) :
    Lift R' (Outcome.andThen o f) (Outcome.andThen o' f') := by
  cases h with
  | next hR => exact hf _ _ hR
  | fault r => exact .fault r
  | refused r => exact .refused r

theorem Lift.exists_next {R : State → State → Prop} {t : State} {o o' : Outcome} (h : Lift R o o')
    (ho : o = .next t) : ∃ t', o' = .next t' ∧ R t t' := by
  subst ho
  cases h with
  | next hR => exact ⟨_, rfl, hR⟩

/-- A relation that RX and DECODE keep is kept by a sequence of bytes. -/
theorem feed_lift {R : State → State → Prop}
    (hrx : ∀ b s t, R s t → Lift R (s.rx b) (t.rx b))
    (hsettle : ∀ s t, R s t → Lift R s.settle t.settle) (bs : List Byte) {s t : State}
    (h : R s t) : Lift R (s.feed bs) (t.feed bs) := by
  induction bs generalizing s t with
  | nil => exact .next h
  | cons b bs ih => exact ((hrx b s t h).andThen hsettle).andThen fun _ _ h => ih h

/-! ### Other times and other waiting bytes -/

/-- The state with other times and other bytes waiting. -/
def retime (now last : Time) (r : List Byte) (s : State) : State :=
  { s with tnow := now, tlast := last, rest := r }

/-- The second state is the first one with `tnow` `n'` in place of `n`, some `tlast`, and other bytes
waiting; with the same `tnow`, the same `tlast`. -/
def Retimed (n n' : Time) (r : List Byte) (s s' : State) : Prop :=
  s.tnow = n ∧ ∃ l, s' = retime n' l r s ∧ (n' = n → l = s.tlast)

variable {n n' : Time} {r : List Byte} {s s' : State}

theorem Retimed.enterAs (h : Retimed n n' r s s') : Retimed n n' r s.enterAs s'.enterAs := by
  obtain ⟨hn, l, rfl, -⟩ := h
  exact ⟨hn, n', rfl, fun hsame => hsame.trans hn.symm⟩

/-- An error of the framing machine: a report, then ENTER.AS. -/
theorem Retimed.report_enterAs (h : Retimed n n' r s s') (k : ErrKind) :
    Retimed n n' r (s.report k none).enterAs (s'.report k none).enterAs := by
  obtain ⟨hn, l, rfl, hl⟩ := h
  exact Retimed.enterAs ⟨hn, l, rfl, hl⟩

theorem Retimed.st_eq (h : Retimed n n' r s s') : s'.st = s.st := by
  obtain ⟨-, l, rfl, -⟩ := h
  rfl

theorem Retimed.rxAs (h : Retimed n n' r s s') (b : Byte) :
    Lift (Retimed n n' r) (s.rxAs b) (s'.rxAs b) := by
  obtain ⟨hn, l, rfl, hl⟩ := h
  by_cases hroom : s.len < s.cfg.capacity
  · by_cases hb : s.cfg.startMarker[s.len]? = some b
    · by_cases hlast : s.len + 1 = s.cfg.startMarker.length
      · rw [s.rxAs_last hroom hb hlast, State.rxAs_last (retime n' l r s) hroom hb hlast]
        exact .next ⟨hn, l, rfl, hl⟩
      · rw [s.rxAs_match hroom hb hlast, State.rxAs_match (retime n' l r s) hroom hb hlast]
        exact .next ⟨hn, l, rfl, hl⟩
    · rw [s.rxAs_miss hroom hb, State.rxAs_miss (retime n' l r s) hroom hb]
      exact .next ⟨hn, l, rfl, hl⟩
  · rw [s.rxAs_outside (Nat.not_lt.1 hroom),
      State.rxAs_outside (retime n' l r s) (Nat.not_lt.1 hroom)]
    exact .fault _

theorem Retimed.rxAb (h : Retimed n n' r s s') (b : Byte) :
    Retimed n n' r (s.rxAb b) (s'.rxAb b) := by
  obtain ⟨hfull, heq⟩ | ⟨hroom, hmatch, heq⟩ | ⟨hroom, hmatch, heq⟩ := s.rxAb_cases b <;> rw [heq]
  · have hs' : s'.rxAb b = s'.raise .bufferOverflow none := by
      obtain ⟨-, l, rfl, -⟩ := h
      exact State.rxAb_overflow (retime n' l r s) hfull
    rw [hs', State.raise_bufferOverflow, State.raise_bufferOverflow]
    exact h.report_enterAs _
  · obtain ⟨hn, l, rfl, hl⟩ := h
    rw [State.rxAb_end (retime n' l r s) hroom hmatch]
    exact ⟨hn, l, rfl, hl⟩
  · obtain ⟨hn, l, rfl, hl⟩ := h
    rw [State.rxAb_body (retime n' l r s) hroom hmatch]
    exact ⟨hn, l, rfl, hl⟩

theorem Retimed.rxRt (h : Retimed n n' r s s') (b : Byte) :
    Retimed n n' r (s.rxRt b) (s'.rxRt b) := by
  obtain ⟨hn, l, rfl, hl⟩ := h
  by_cases hroom : s.len + 1 ≤ s.cfg.capacity
  · by_cases h1 : s.trem = 1
    · rw [s.rxRt_last hroom h1, State.rxRt_last (retime n' l r s) hroom h1]
      exact ⟨hn, l, rfl, hl⟩
    · rw [s.rxRt_more hroom h1, State.rxRt_more (retime n' l r s) hroom h1]
      exact ⟨hn, l, rfl, hl⟩
  · rw [s.rxRt_full (Nat.not_le.1 hroom),
      State.rxRt_full (retime n' l r s) (Nat.not_le.1 hroom)]
    by_cases hlast : s.trem - 1 = 0
    · have hlast' : (retime n' l r s).trem - 1 = 0 := hlast
      rw [if_pos hlast, if_pos hlast']
      exact ⟨hn, l, rfl, hl⟩
    · have hlast' : ¬ (retime n' l r s).trem - 1 = 0 := hlast
      rw [if_neg hlast, if_neg hlast']
      exact ⟨hn, l, rfl, hl⟩

theorem Retimed.rx (b : Byte) (s s' : State) (h : Retimed n n' r s s') :
    Lift (Retimed n n' r) (s.rx b) (s'.rx b) := by
  have hst := h.st_eq
  cases hq : s.st with
  | awaitStart =>
    rw [s.rx_awaitStart b hq, s'.rx_awaitStart b (hst.trans hq)]
    exact h.rxAs b
  | accumulateBody =>
    rw [s.rx_accumulateBody b hq, s'.rx_accumulateBody b (hst.trans hq)]
    exact .next (h.rxAb b)
  | readTrailer =>
    rw [s.rx_readTrailer b hq, s'.rx_readTrailer b (hst.trans hq)]
    exact .next (h.rxRt b)
  | decode =>
    rw [s.rx_decode b hq, s'.rx_decode b (hst.trans hq)]
    exact .refused _

/-- DECODE reads neither the times nor the waiting bytes, but for the `tnow` of ENTER.AS. -/
theorem Retimed.decodeFrame (h : Retimed n n' r s s') :
    Lift (Retimed n n' r) s.decodeFrame s'.decodeFrame := by
  have hcrc : Retimed n n' r s.crcVerify.2 s'.crcVerify.2 ∧ s'.crcVerify.1 = s.crcVerify.1 ∧
      s'.len = s.len ∧ s'.cfg = s.cfg ∧
      s'.crcVerify.2 = inContext s'.crcVerify.2 s.crcVerify.2 := by
    obtain ⟨hn, l, rfl, hl⟩ := h
    exact ⟨⟨hn, l, rfl, hl⟩, rfl, rfl, rfl, rfl⟩
  obtain ⟨hretimed, hflag, hlen', hcfg', hcontext⟩ := hcrc
  by_cases hbytes : 2 ≤ s.len ∧ s.len ≤ s.cfg.capacity
  · obtain ⟨hlen, hcap⟩ := hbytes
    have hlen2 : 2 ≤ s'.len := hlen' ▸ hlen
    have hcap2 : s'.len ≤ s'.cfg.capacity := by rw [hlen', hcfg']; exact hcap
    cases hv : s.crcVerify.1 with
    | false =>
      rw [s.decodeFrame_mismatch hlen hcap hv,
        s'.decodeFrame_mismatch hlen2 hcap2 (hflag.trans hv)]
      exact .next (hretimed.report_enterAs .checksumMismatch)
    | true =>
      rw [s.decodeFrame_valid hlen hcap hv, s'.decodeFrame_valid hlen2 hcap2 (hflag.trans hv),
        hcontext, mdAll_pubAll_inContext, ← mdAll_pubAll_context s.crcVerify.2]
      refine .next (Retimed.enterAs ?_)
      obtain ⟨hn, l, hs', hl⟩ := hretimed
      rw [hs']
      exact ⟨hn, l, rfl, hl⟩
  · have hfault : s.decodeFrame = .fault .bufAddress :=
      if_neg fun hk => hbytes (s.hasChecksum_iff.1 hk)
    have hfault' : s'.decodeFrame = .fault .bufAddress := if_neg fun hk => by
      have hbytes' := s'.hasChecksum_iff.1 hk
      rw [hlen', hcfg'] at hbytes'
      exact hbytes hbytes'
    rw [hfault, hfault']
    exact .fault _

theorem Retimed.settle (s s' : State) (h : Retimed n n' r s s') :
    Lift (Retimed n n' r) s.settle s'.settle := by
  by_cases hst : s.st = .decode
  · rw [s.settle_decode hst, s'.settle_decode (h.st_eq.trans hst)]
    exact h.decodeFrame
  · rw [s.settle_other hst, s'.settle_other fun hst' => hst (h.st_eq.symm.trans hst')]
    exact .next h

theorem Retimed.feed (h : Retimed n n' r s s') (bs : List Byte) :
    Lift (Retimed n n' r) (s.feed bs) (s'.feed bs) :=
  feed_lift Retimed.rx Retimed.settle bs h

/-! ### A tick cut in two (R164) -/

/-- A tick outside Decode is its bytes, after the timeout check. -/
theorem exec_tick_eq (ss : FrameState) (now : Time) (bs : List Byte) (hst : s.st ≠ .decode) :
    exec (.tick ss now bs) s = (s.setTime now).tmoChk.feed bs :=
  State.deliver_other _ bs (tmoChk_st_ne_decode hst)

/-- Settles O55: the second tick runs its bytes from the same state at another `tnow`. -/
theorem chunkingOfBytesIntoTicksIsUnobservable :
    Obligations.ChunkingOfBytesIntoTicksIsUnobservable := by
  intro s ss now later as bs hs hst
  have hchecked := tmoChk_keeps (setTime_keeps now hs)
  have hcheckedSt : (s.setTime now).tmoChk.st ≠ .decode := tmoChk_st_ne_decode hst
  obtain ⟨u, hu, hudriven, hust⟩ := feed_keeps as hchecked hcheckedSt
  obtain ⟨t, ht, -⟩ := feed_keeps bs hudriven hust
  have hcfg : u.cfg = s.cfg :=
    (Reaches.sameEnvironment (reaches_feed as hu)).1.trans
      (Reaches.sameEnvironment ((reaches_tmoChk (s.setTime now)))).1
  have hrest : t.rest = u.rest := (Reaches.sameEnvironment (reaches_feed bs ht)).2.1
  refine ⟨t, u, ?_, (exec_tick_eq ss now as hst).trans hu, fun hquiet => ?_⟩
  · rw [exec_tick_eq ss now _ hst, State.feed_append, hu]
    exact ht
  · rw [← hcfg] at hquiet ⊢
    have hlater : (u.setTime later).tmoChk = u.setTime later :=
      (u.setTime later).tmoChk_quiet (by rwa [u.setTime_tnow, u.setTime_cfg, elapsedOf_timeOf])
    have hretimed : Retimed u.tnow (timeOf u.cfg.timeWidth later) u.rest u (u.setTime later) :=
      ⟨rfl, u.tlast, rfl, fun _ => rfl⟩
    obtain ⟨v, hv, -, l, hveq, -⟩ := (hretimed.feed bs).exists_next ht
    refine ⟨v, by rw [exec_tick_eq ss later bs hust, hlater, hv], ?_⟩
    rw [hveq, ← hrest]
    rfl

/-! ### A tick in its fine-grained steps (R9) -/

theorem run_succ_of_step {s t : State} (h : step s = .next t) (n : Nat) :
    Sys2Proof.core.run (n + 1) s = Sys2Proof.core.run n t := by
  have hcore : Sys2Proof.core.step s = .next t := h
  simp only [Host.Core.run, hcore]

/-- With the same `tnow` only the waiting bytes differ. -/
theorem Retimed.rest_only (h : Retimed n n r s s') : s' = { s with rest := r } := by
  obtain ⟨rfl, l, rfl, hl⟩ := h
  rw [hl rfl, retime]

theorem retimed_rest (s : State) (r : List Byte) :
    Retimed s.tnow s.tnow r s { s with rest := r } := ⟨rfl, s.tlast, rfl, fun _ => rfl⟩

/-- An operation that answers a next state answers the same with other bytes waiting. -/
theorem eq_next_of_retimed_rest {o o' : Outcome} {t : State} {n : Time}
    (h : Lift (Retimed n n r) o o') (ho : o = .next t) : o' = .next { t with rest := r } := by
  obtain ⟨t', ho', ht'⟩ := h.exists_next ho
  rw [ho', ht'.rest_only]

/-- Each byte is one step, and one more where it makes DECODE due. -/
theorem run_of_feed (bs : List Byte) {s t : State} (hs : s.EventDriven) (hst : s.st ≠ .decode)
    (hrest : s.rest = []) (h : s.feed bs = .next t) :
    ∃ n, Sys2Proof.core.run n { s with rest := bs } = .next t := by
  induction bs generalizing s with
  | nil =>
    cases h
    exact ⟨0, by rw [← hrest]; rfl⟩
  | cons b bs ih =>
    have ⟨⟨hwf, _⟩, _, _, hport⟩ := hs
    obtain ⟨u, hrx, hu⟩ := rx_keeps b hs hst
    obtain ⟨v, hsettle, hv, hvst⟩ := settle_keeps hu
    have hfeed : v.feed bs = .next t := by
      rw [s.feed_cons, hrx, Outcome.andThen_next, hsettle, Outcome.andThen_next] at h
      exact h
    have hurest : u.rest = [] := (Reaches.sameEnvironment (reaches_rx hrx)).2.1.trans hrest
    have hvrest : v.rest = [] :=
      (Reaches.sameEnvironment (reaches_settle hsettle)).2.1.trans hurest
    obtain ⟨n, hn⟩ := ih hv hvst hvrest hfeed
    have hbyte : step { s with rest := b :: bs } = .next { u with rest := bs } :=
      (step_byte (s := { s with rest := b :: bs }) hwf hport hst rfl).trans
        (eq_next_of_retimed_rest (Retimed.rx b _ _ (retimed_rest s bs)) hrx)
    by_cases hdecode : u.st = .decode
    · have ⟨⟨hwf', _⟩, _, _, hport'⟩ := hu
      rw [u.settle_decode hdecode] at hsettle
      have hdue : step { u with rest := bs } = .next { v with rest := bs } :=
        ((step_decode (s := { u with rest := bs }) hwf' hport' hdecode).trans
          (exec_decode_of_decode hdecode)).trans
          (eq_next_of_retimed_rest (retimed_rest u bs).decodeFrame hsettle)
      exact ⟨n + 2, by rw [run_succ_of_step hbyte, run_succ_of_step hdue, hn]⟩
    · rw [u.settle_other hdecode] at hsettle
      cases hsettle
      exact ⟨n + 1, by rw [run_succ_of_step hbyte, hn]⟩

/-- Settles O54: after the timeout check the tick's bytes run in single steps (`run_of_feed`). -/
theorem tickEqualsItsFineGrainedSteps : Obligations.TickEqualsItsFineGrainedSteps := by
  intro s ss now bs hs hst hrest
  have hchecked := tmoChk_keeps (setTime_keeps now hs)
  have hcheckedSt : (s.setTime now).tmoChk.st ≠ .decode := tmoChk_st_ne_decode hst
  have hcheckedRest : (s.setTime now).tmoChk.rest = [] :=
    (Reaches.sameEnvironment (reaches_tmoChk (s.setTime now))).2.1.trans hrest
  obtain ⟨t, ht, -⟩ := feed_keeps bs hchecked hcheckedSt
  obtain ⟨n, hn⟩ := run_of_feed bs hchecked hcheckedSt hcheckedRest ht
  exact ⟨(s.setTime now).tmoChk, t, n, rfl, (exec_tick_eq ss now bs hst).trans ht, hn⟩

end Sys2Proof.Proofs.Context
end

section
/-! PROOFS. Nothing depends on the elements that reset leaves unspecified (spec/70_reset_and_hazards.md
R271): two states that agree on the rest run alike and emit the same events, so the same frame twice
emits the same events twice (R163, R225). -/

namespace Sys2Proof.Proofs.Noninterference

open Sys2Proof Sys2Proof.Machine
open Sys2Proof.Proofs.Updates Sys2Proof.Proofs.Step Sys2Proof.Proofs.FramingInvariant
open Sys2Proof.Proofs.Delivery Sys2Proof.Proofs.WholeFrame Sys2Proof.Proofs.Context
open Sys2Proof.Proofs.MetricDecoder Sys2Proof.Proofs.Publisher
open Sys2Proof.Proofs.DecodeFrame (exec_decode_of_decode)

/-! ### The events of DECODE depend on the frame alone -/

/-- The same bytes below `len`, read one by one. -/
theorem sameFrame_of_bufSlice {s t : State} (hcfg : s.cfg = t.cfg) (hlen : s.len = t.len)
    (hbytes : s.bufSlice 0 s.len = t.bufSlice 0 t.len) : SameFrame s t := by
  refine ⟨hcfg, hlen, fun k hk => ?_⟩
  have hread := s.bufSlice_getElem? (lo := 0) (hi := s.len) (k := k) (by omega)
  rw [hbytes, t.bufSlice_getElem? (by omega), Nat.zero_add] at hread
  exact (Option.some.inj hread).symm

theorem sameFrame_crcVerify {s t : State} (h : SameFrame s t) (hlen : 2 ≤ s.len) :
    s.crcVerify.1 = t.crcVerify.1 := by
  have ⟨_, hlen', hread⟩ := h
  rw [s.crcVerify_flag, t.crcVerify_flag, ← hlen', h.bufSlice_eq (Nat.sub_le _ _),
    hread _ (by omega), hread _ (by omega)]

/-- MD.ALL gives every metric its result, whatever the decoded values were before. -/
theorem mdAll_dec_eq {s t : State} (h : SameFrame s t) (hs : s.dec.length = s.cfg.metricCount)
    (ht : t.dec.length = t.cfg.metricCount) : s.mdAll.dec = t.mdAll.dec := by
  have hlength : ∀ u : State, u.mdAll.dec.length = u.dec.length := fun u =>
    u.mdAll_keeps (fun v => v.dec.length = u.dec.length)
      (fun v i hv => by rw [mdDecode_dec, List.length_set, hv]) rfl
  have hcfg := h.cfg_eq
  refine List.ext_getElem? fun i => ?_
  by_cases hi : i < s.cfg.metricCount
  · rw [mdAll_dec_getElem? s hi, mdAll_dec_getElem? t (hcfg ▸ hi), mdDecode_dec, mdDecode_dec,
      h.metricResult_eq i, List.getElem?_set_self (hs ▸ hi),
      List.getElem?_set_self (by rw [ht, ← hcfg]; exact hi)]
  · rw [List.getElem?_eq_none (by rw [hlength, hs]; omega),
      List.getElem?_eq_none (by rw [hlength, ht, ← hcfg]; omega)]

theorem mdAll_cfg (s : State) : s.mdAll.cfg = s.cfg :=
  (Reaches.sameEnvironment (reaches_mdAll s)).1

/-- The events of MD.ALL and PUB.ALL: the reports of the decoder, then those of the publisher. -/
def publishedEvents (s : State) : List Output :=
  (List.range s.cfg.metricCount).flatMap (fun i => reportOf i (metricResult s i)) ++
    (List.range s.cfg.metricCount).flatMap (pubEvents s.mdAll)

theorem mdAll_pubAll_out (s : State) : s.mdAll.pubAll.out = s.out ++ publishedEvents s := by
  rw [pubAll_out, mdAll_out, mdAll_cfg, publishedEvents, List.append_assoc]

theorem publishedEvents_eq {s t : State} (h : SameFrame s t)
    (hs : s.dec.length = s.cfg.metricCount) (ht : t.dec.length = t.cfg.metricCount) :
    publishedEvents s = publishedEvents t := by
  have hcfg := h.cfg_eq
  have hresults : metricResult s = metricResult t := funext h.metricResult_eq
  have hevents : pubEvents s.mdAll = pubEvents t.mdAll :=
    funext (pubEvents_congr (mdAll_dec_eq h hs ht) (by rw [mdAll_cfg, mdAll_cfg, hcfg]))
  rw [publishedEvents, publishedEvents, hcfg, hresults, hevents]

/-- Two frames of the same bytes under the same configuration emit the same events. -/
theorem decodeFrame_same_events {s t s' t' : State} (h : SameFrame s t)
    (hs : s.dec.length = s.cfg.metricCount) (ht : t.dec.length = t.cfg.metricCount)
    (hs' : s.decodeFrame = .next s') (ht' : t.decodeFrame = .next t') :
    ∃ es, s'.out = s.out ++ es ∧ t'.out = t.out ++ es := by
  obtain ⟨hlen, -, hsCases⟩ := s.decodeFrame_cases hs'
  obtain ⟨-, -, htCases⟩ := t.decodeFrame_cases ht'
  have hflag := sameFrame_crcVerify h hlen
  obtain ⟨hv, rfl⟩ | ⟨hv, rfl⟩ := hsCases <;> obtain ⟨hv', rfl⟩ | ⟨hv', rfl⟩ := htCases
  · exact ⟨[.report 2 none], rfl, rfl⟩
  · rw [hflag, hv'] at hv
    cases hv
  · rw [hflag, hv'] at hv
    cases hv
  · have hsame : publishedEvents s.crcVerify.2 = publishedEvents t.crcVerify.2 :=
      publishedEvents_eq h hs ht
    exact ⟨_, mdAll_pubAll_out s.crcVerify.2, hsame ▸ mdAll_pubAll_out t.crcVerify.2⟩

/-! ### Alike states -/

section Alike

variable {s t : State}

theorem alike_sameFrame (h : s.Alike t) : SameFrame s t := by
  obtain ⟨hcfg, -, hlen, hbytes, -⟩ := h
  exact sameFrame_of_bufSlice hcfg hlen hbytes

theorem alike_stored (hs : s.Sane) (ht : t.Sane) (h : s.Alike t) (b : Byte) :
    (s.stored b).Alike (t.stored b) := by
  obtain ⟨-, hsbuf, -⟩ := hs
  obtain ⟨-, htbuf, -⟩ := ht
  obtain ⟨hcfg, hst, hlen, hbytes, hrest⟩ := h
  refine ⟨hcfg, hst, congrArg (· + 1) hlen, ?_, hrest⟩
  have hstored := stored_bufSlice_succ hsbuf b (Nat.zero_le s.len)
  rw [hbytes, ← stored_bufSlice_succ htbuf b (Nat.zero_le t.len)] at hstored
  exact hstored

theorem alike_framing (h : s.Alike t) (q : FrameState) {n n' : BitVec 2}
    (hn : q = .readTrailer → n = n') :
    State.Alike { s with st := q, trem := n } { t with st := q, trem := n' } := by
  obtain ⟨hcfg, -, hlen, hbytes, -, hrest⟩ := h
  exact ⟨hcfg, rfl, hlen, hbytes, hn, hrest⟩

/-- With nothing in the buffer there is nothing of it to agree on. -/
theorem alike_empty (h : s.Alike t) (m m' : Memory) :
    State.Alike { s with buf := m, len := 0 } { t with buf := m', len := 0 } := by
  obtain ⟨hcfg, hst, -, -, hrest⟩ := h
  exact ⟨hcfg, hst, rfl, rfl, hrest⟩

theorem alike_report_enterAs (h : s.Alike t) (k : ErrKind) :
    (s.report k none).enterAs.Alike (t.report k none).enterAs := by
  obtain ⟨hcfg, -, -, -, -, -, htnow, hrest⟩ := h
  exact ⟨hcfg, rfl, rfl, rfl, nofun, htnow, htnow, hrest⟩

theorem alike_endMatched (h : s.Alike t) : s.endMatched = true ↔ t.endMatched = true := by
  have hframe := alike_sameFrame h
  rw [s.endMatched_iff, t.endMatched_iff, hframe.bufSlice_eq le_rfl, hframe.cfg_eq, hframe.len_eq]

end Alike

/-! ### Two runs from alike states -/

/-- Two sane and alike states, reached with the same events after `out` and after `out'`. -/
structure Twins (out out' : List Output) (s t : State) : Prop where
  left : s.Sane
  right : t.Sane
  alike : s.Alike t
  events : ∃ es, s.out = out ++ es ∧ t.out = out' ++ es

variable {out out' : List Output} {s t : State}

/-- Twins go on to twins: what is left to show is that they are alike and have emitted the same. -/
theorem Twins.reach {s' t' : State} (h : Twins out out' s t) (hs : Reaches s s') (ht : Reaches t t')
    (halike : s'.Alike t') (hevents : ∃ es, s'.out = s.out ++ es ∧ t'.out = t.out ++ es) :
    Twins out out' s' t' := by
  obtain ⟨es, hout, hout'⟩ := h.events
  obtain ⟨fs, hfs, hfs'⟩ := hevents
  exact ⟨Reaches.sane hs h.left, Reaches.sane ht h.right, halike, es ++ fs,
    by rw [hfs, hout, List.append_assoc], by rw [hfs', hout', List.append_assoc]⟩

/-- Twins go on to twins without an event. -/
theorem Twins.reach_silent {s' t' : State} (h : Twins out out' s t) (hs : Reaches s s')
    (ht : Reaches t t') (halike : s'.Alike t') (hsilent : s'.out = s.out) (hsilent' : t'.out = t.out) :
    Twins out out' s' t' :=
  h.reach hs ht halike ⟨[], by rw [hsilent, List.append_nil], by rw [hsilent', List.append_nil]⟩

theorem Twins.report_enterAs (h : Twins out out' s t) (k : ErrKind) :
    Twins out out' (s.report k none).enterAs (t.report k none).enterAs :=
  h.reach ((Relation.ReflTransGen.single (.report s k.code none)).trans (reaches_enterAs _))
    ((Relation.ReflTransGen.single (.report t k.code none)).trans (reaches_enterAs _))
    (alike_report_enterAs h.alike k) ⟨[.report k.code none], rfl, rfl⟩

theorem Twins.rxAs (h : Twins out out' s t) (b : Byte) :
    Lift (Twins out out') (s.rxAs b) (t.rxAs b) := by
  have halike := alike_stored h.left h.right h.alike b
  obtain ⟨hcfg, hlen, -⟩ := alike_sameFrame h.alike
  have hgo : ∀ s' t', s.rxAs b = .next s' → t.rxAs b = .next t' → s'.Alike t' →
      s'.out = s.out → t'.out = t.out → Lift (Twins out out') (s.rxAs b) (t.rxAs b) := by
    intro s' t' hs' ht' halike' hsilent hsilent'
    rw [hs', ht']
    exact .next (h.reach_silent (reaches_rxAs hs') (reaches_rxAs ht') halike' hsilent hsilent')
  by_cases hroom : s.len < s.cfg.capacity
  · have hroom' : t.len < t.cfg.capacity := hcfg ▸ hlen ▸ hroom
    by_cases hb : s.cfg.startMarker[s.len]? = some b
    · have hb' : t.cfg.startMarker[t.len]? = some b := hcfg ▸ hlen ▸ hb
      by_cases hlast : s.len + 1 = s.cfg.startMarker.length
      · have hlast' : t.len + 1 = t.cfg.startMarker.length := hcfg ▸ hlen ▸ hlast
        exact hgo _ _ (s.rxAs_last hroom hb hlast) (t.rxAs_last hroom' hb' hlast')
          (alike_framing halike .accumulateBody nofun) rfl rfl
      · have hlast' : t.len + 1 ≠ t.cfg.startMarker.length := hcfg ▸ hlen ▸ hlast
        exact hgo _ _ (s.rxAs_match hroom hb hlast) (t.rxAs_match hroom' hb' hlast') halike rfl rfl
    · have hb' : t.cfg.startMarker[t.len]? ≠ some b := hcfg ▸ hlen ▸ hb
      exact hgo _ _ (s.rxAs_miss hroom hb) (t.rxAs_miss hroom' hb') (alike_empty h.alike _ _) rfl rfl
  · have hroom' : t.cfg.capacity ≤ t.len := hcfg ▸ hlen ▸ Nat.not_lt.1 hroom
    rw [s.rxAs_outside (Nat.not_lt.1 hroom), t.rxAs_outside hroom']
    exact .fault _

theorem Twins.rxAb (h : Twins out out' s t) (b : Byte) : Twins out out' (s.rxAb b) (t.rxAb b) := by
  have halike := alike_stored h.left h.right h.alike b
  have hmatch := alike_endMatched halike
  obtain ⟨hcfg, hlen, -⟩ := alike_sameFrame h.alike
  have hgo := h.reach_silent (reaches_rxAb s b) (reaches_rxAb t b)
  by_cases hroom : s.len + 1 ≤ s.cfg.capacity - s.cfg.reserve
  · have hroom' : t.len + 1 ≤ t.cfg.capacity - t.cfg.reserve := hcfg ▸ hlen ▸ hroom
    by_cases hend : (s.stored b).endMatched = true
    · rw [s.rxAb_end hroom hend, t.rxAb_end hroom' (hmatch.1 hend)] at hgo ⊢
      exact hgo (alike_framing halike .readTrailer fun _ => by rw [hcfg]) rfl rfl
    · rw [s.rxAb_body hroom hend, t.rxAb_body hroom' (mt hmatch.2 hend)] at hgo ⊢
      exact hgo halike rfl rfl
  · have hroom' : t.cfg.capacity - t.cfg.reserve < t.len + 1 :=
      hcfg ▸ hlen ▸ Nat.not_le.1 hroom
    rw [s.rxAb_overflow (Nat.not_le.1 hroom), t.rxAb_overflow hroom', s.raise_bufferOverflow,
      t.raise_bufferOverflow]
    exact h.report_enterAs _

theorem Twins.rxRt (h : Twins out out' s t) (hst : s.st = .readTrailer) (b : Byte) :
    Twins out out' (s.rxRt b) (t.rxRt b) := by
  have halike := alike_stored h.left h.right h.alike b
  obtain ⟨-, hst', -, -, htrem, -⟩ := id h.alike
  have htrem := htrem hst
  obtain ⟨hcfg, hlen, -⟩ := alike_sameFrame h.alike
  have hgo := h.reach_silent (reaches_rxRt s b) (reaches_rxRt t b)
  by_cases hroom : s.len + 1 ≤ s.cfg.capacity
  · have hroom' : t.len + 1 ≤ t.cfg.capacity := hcfg ▸ hlen ▸ hroom
    by_cases h1 : s.trem = 1
    · rw [s.rxRt_last hroom h1, t.rxRt_last hroom' (htrem ▸ h1)] at hgo ⊢
      exact hgo (alike_framing halike .decode nofun) rfl rfl
    · rw [s.rxRt_more hroom h1, t.rxRt_more hroom' (htrem ▸ h1)] at hgo ⊢
      obtain ⟨hcfg', -, hlen', hbytes', -, hrest'⟩ := halike
      exact hgo ⟨hcfg', hst', hlen', hbytes', fun _ => by rw [htrem], hrest'⟩ rfl rfl
  · have hroom' : t.cfg.capacity < t.len + 1 := hcfg ▸ hlen ▸ Nat.not_le.1 hroom
    rw [s.rxRt_full (Nat.not_le.1 hroom), t.rxRt_full hroom', ← htrem] at hgo ⊢
    by_cases hlast : s.trem - 1 = 0
    · rw [if_pos hlast, if_pos hlast] at hgo ⊢
      exact hgo (alike_framing h.alike .decode nofun) rfl rfl
    · rw [if_neg hlast, if_neg hlast] at hgo ⊢
      obtain ⟨hcfg', -, hlen', hbytes', -, hrest'⟩ := h.alike
      exact hgo ⟨hcfg', hst', hlen', hbytes', fun _ => rfl, hrest'⟩ rfl rfl

theorem Twins.rx (b : Byte) (s t : State) (h : Twins out out' s t) :
    Lift (Twins out out') (s.rx b) (t.rx b) := by
  obtain ⟨-, hst, -⟩ := id h.alike
  cases hq : s.st with
  | awaitStart =>
    rw [s.rx_awaitStart b hq, t.rx_awaitStart b (hst.symm.trans hq)]
    exact h.rxAs b
  | accumulateBody =>
    rw [s.rx_accumulateBody b hq, t.rx_accumulateBody b (hst.symm.trans hq)]
    exact .next (h.rxAb b)
  | readTrailer =>
    rw [s.rx_readTrailer b hq, t.rx_readTrailer b (hst.symm.trans hq)]
    exact .next (h.rxRt hq b)
  | decode =>
    rw [s.rx_decode b hq, t.rx_decode b (hst.symm.trans hq)]
    exact .refused _

/-- DECODE ends in AwaitStart with an empty buffer, where only the times are left to agree on. -/
theorem Twins.decodeFrame (h : Twins out out' s t) (hst : s.st = .decode) :
    Lift (Twins out out') s.decodeFrame t.decodeFrame := by
  have hframe := alike_sameFrame h.alike
  have ⟨hcfg, hlen, _⟩ := hframe
  obtain ⟨-, hst', -, -, -, -, htnow, hrest, hpend, hport⟩ := id h.alike
  obtain ⟨-, -, -, -, hsdec, -⟩ := id h.left
  obtain ⟨-, -, -, -, htdec, -⟩ := id h.right
  by_cases hbytes : 2 ≤ s.len ∧ s.len ≤ s.cfg.capacity
  · obtain ⟨htwo, hcap⟩ := hbytes
    obtain ⟨s', hs'⟩ := decodeFrame_completes htwo hcap
    obtain ⟨t', ht'⟩ := decodeFrame_completes (s := t) (hlen ▸ htwo) (hcfg ▸ hlen ▸ hcap)
    obtain ⟨hsst, hslen, hstlast, hstnow, -⟩ :=
      decodeAlwaysEndsInAwaitStart s s' ((exec_decode_of_decode hst).trans hs')
    obtain ⟨htst, htlen, httlast, httnow, -⟩ :=
      decodeAlwaysEndsInAwaitStart t t' ((exec_decode_of_decode (hst'.symm.trans hst)).trans ht')
    obtain ⟨hscfg, hsrest, hspend, hsport⟩ := Reaches.sameEnvironment (reaches_decodeFrame hs')
    obtain ⟨htcfg, htrest, htpend, htport⟩ := Reaches.sameEnvironment (reaches_decodeFrame ht')
    rw [hs', ht']
    refine .next (h.reach (reaches_decodeFrame hs') (reaches_decodeFrame ht')
      ⟨?_, ?_, ?_, ?_, ?_, ?_, ?_, ?_, ?_, ?_⟩ (decodeFrame_same_events hframe hsdec htdec hs' ht'))
    · rw [hscfg, htcfg, hcfg]
    · rw [hsst, htst]
    · rw [hslen, htlen]
    · rw [hslen, htlen]
      rfl
    · rw [hsst]
      nofun
    · rw [hstlast, httlast, htnow]
    · rw [hstnow, httnow, htnow]
    · rw [hsrest, htrest, hrest]
    · rw [hspend, htpend, hpend]
    · rw [hsport, htport, hport]
  · have hfault : s.decodeFrame = .fault .bufAddress :=
      if_neg fun hk => hbytes (s.hasChecksum_iff.1 hk)
    have hfault' : t.decodeFrame = .fault .bufAddress :=
      if_neg fun hk => hbytes (by rw [hcfg, hlen]; exact t.hasChecksum_iff.1 hk)
    rw [hfault, hfault']
    exact .fault _

theorem Twins.settle (s t : State) (h : Twins out out' s t) :
    Lift (Twins out out') s.settle t.settle := by
  obtain ⟨-, hst, -⟩ := id h.alike
  by_cases hq : s.st = .decode
  · rw [s.settle_decode hq, t.settle_decode (hst.symm.trans hq)]
    exact h.decodeFrame hq
  · rw [s.settle_other hq, t.settle_other fun hq' => hq (hst.trans hq')]
    exact .next h

theorem Twins.feed (h : Twins out out' s t) (bs : List Byte) :
    Lift (Twins out out') (s.feed bs) (t.feed bs) :=
  feed_lift Twins.rx Twins.settle bs h

/-! ### One step from alike states -/

theorem Twins.tmoChk (h : Twins out out' s t) : Twins out out' s.tmoChk t.tmoChk := by
  obtain ⟨hcfg, -, -, -, -, htlast, htnow, -⟩ := id h.alike
  by_cases hquiet : elapsedOf s.cfg.timeWidth s.tnow s.tlast ≤ s.cfg.timeoutT
  · rw [s.tmoChk_quiet hquiet, t.tmoChk_quiet (by rwa [← hcfg, ← htlast, ← htnow])]
    exact h
  · have hfires := Nat.not_le.1 hquiet
    rw [s.tmoChk_fires hfires, t.tmoChk_fires (by rwa [← hcfg, ← htlast, ← htnow]), s.raise_timeout,
      t.raise_timeout]
    exact h.report_enterAs _

theorem Twins.setTime (h : Twins out out' s t) (now : Time) :
    Twins out out' (s.setTime now) (t.setTime now) := by
  obtain ⟨hcfg, hst, hlen, hbytes, htrem, htlast, -, hrest⟩ := id h.alike
  refine h.reach_silent (.single (.sampleTime s now)) (.single (.sampleTime t now))
    ⟨hcfg, hst, hlen, hbytes, htrem, htlast, ?_, hrest⟩ rfl rfl
  rw [State.setTime_tnow, State.setTime_tnow, hcfg]

/-- Taking the next byte leaves the same bytes waiting. -/
theorem Twins.takeByte (h : Twins out out' s t) (bs : List Byte) :
    Twins out out' { s with rest := bs } { t with rest := bs } := by
  obtain ⟨hcfg, hst, hlen, hbytes, htrem, htlast, htnow, -, hrest⟩ := id h.alike
  exact ⟨h.left, h.right, ⟨hcfg, hst, hlen, hbytes, htrem, htlast, htnow, rfl, hrest⟩, h.events⟩

/-- Taking the next event leaves the same events pending. -/
theorem Twins.takeEvent (h : Twins out out' s t) (es : List Event) :
    Twins out out' { s with pend := es } { t with pend := es } := by
  obtain ⟨hcfg, hst, hlen, hbytes, htrem, htlast, htnow, hrest, -, hport⟩ := id h.alike
  exact ⟨h.left, h.right, ⟨hcfg, hst, hlen, hbytes, htrem, htlast, htnow, hrest, rfl, hport⟩,
    h.events⟩

theorem Twins.execReset (h : Twins out out' s t) (ss : FrameState) (now : Time) :
    Lift (Twins out out') (execReset ss now s) (execReset ss now t) := by
  obtain ⟨hcfg, -, -, -, -, -, -, hrest⟩ := id h.alike
  refine .next (h.reach_silent (reaches_reset s now) (reaches_reset t now)
    ⟨hcfg, rfl, rfl, rfl, nofun, ?_, ?_, hrest⟩ rfl rfl)
  · simp only [hcfg]
  · simp only [State.setTime_tnow, hcfg]

/-- The same thing is there to run in both, and it runs alike. -/
theorem Twins.step (h : Twins out out' s t) (hport : s.port = none) :
    Lift (Twins out out') (step s) (step t) := by
  obtain ⟨-, hst, -, -, -, -, -, hrest', hpend', hport'⟩ := id h.alike
  obtain ⟨hwf, -⟩ := id h.left
  obtain ⟨hwf', -⟩ := id h.right
  replace hport' : t.port = none := hport'.symm.trans hport
  by_cases hq : s.st = .decode
  · have hq' : t.st = .decode := hst.symm.trans hq
    rw [step_decode hwf hport hq, step_decode hwf' hport' hq', exec_decode_of_decode hq,
      exec_decode_of_decode hq']
    exact h.decodeFrame hq
  have hq' : t.st ≠ .decode := fun hd => hq (hst.trans hd)
  cases hrest : s.rest with
  | cons b bs =>
    rw [step_byte hwf hport hq hrest, step_byte hwf' hport' hq' (hrest'.symm.trans hrest)]
    exact Twins.rx b _ _ (h.takeByte bs)
  | nil =>
    replace hrest' : t.rest = [] := hrest'.symm.trans hrest
    cases hpend : s.pend with
    | nil =>
      rw [step_idle hwf hport hq hrest hpend,
        step_idle hwf' hport' hq' hrest' (hpend'.symm.trans hpend)]
      exact .next h
    | cons e es =>
      replace hpend' : t.pend = e :: es := hpend'.symm.trans hpend
      cases e with
      | reset now =>
        rw [step_reset hwf hport hq hrest hpend, step_reset hwf' hport' hq' hrest' hpend']
        exact (h.takeEvent es).execReset s.st now
      | tick now bs =>
        rw [step_tick hwf hport hq hrest hpend, step_tick hwf' hport' hq' hrest' hpend',
          exec_tick_eq (s := { s with pend := es }) _ now bs hq,
          exec_tick_eq (s := { t with pend := es }) _ now bs hq']
        exact ((h.takeEvent es).setTime now).tmoChk.feed bs
      | tickSteps now bs =>
        rw [step_tickSteps hwf hport hq hrest hpend, step_tickSteps hwf' hport' hq' hrest' hpend']
        exact .next (((h.setTime now).takeByte bs).takeEvent es).tmoChk

/-- Settles O57: the two states are twins before the step, with no event emitted since. -/
theorem unspecifiedElementsNeverAffectAStep : Obligations.UnspecifiedElementsNeverAffectAStep := by
  intro s t s' hs ht hport halike hstep
  have htwins : Twins s.out t.out s t :=
    ⟨hs, ht, halike, [], (List.append_nil _).symm, (List.append_nil _).symm⟩
  obtain ⟨t', ht', htwins'⟩ := (htwins.step hport).exists_next hstep
  obtain ⟨es, hout, hout'⟩ := htwins'.events
  exact ⟨t', es, ht', htwins'.alike, hout, hout'⟩

/-! ### The same frame twice (R163, R225) -/

/-- The two buffers that hold the same bytes are the same frame. -/
theorem sameFrame_of_holds {bs : List Byte} (hcfg : s.cfg = t.cfg) (hs : s.Holds bs)
    (ht : t.Holds bs) : SameFrame s t := by
  obtain ⟨hslen, hsbytes⟩ := hs
  obtain ⟨htlen, htbytes⟩ := ht
  exact sameFrame_of_bufSlice hcfg (hslen.trans htlen.symm) (hsbytes.trans htbytes.symm)

/-- Settles O58: each tick is one DECODE on a buffer that holds the frame (O56), and after the first one
the block waits again, with the first tick's time in `tlast`. -/
theorem sameFrameTwiceEmitsTheSameEventsTwice :
    Obligations.SameFrameTwiceEmitsTheSameEventsTwice := by
  intro s ss now later body tr hsane hst hlen hquiet hquiet' hendOnly htrailer hfits
  obtain ⟨u, t, hexec, hdecode, hholds, hu, htst, htlen⟩ :=
    wellFormedFrameIsDecodedOnceOnItsOwnBytes s ss now body tr hsane hst hlen hquiet hendOnly
      htrailer hfits
  have htsane : t.Sane := Reaches.sane (reaches_exec hexec) hsane
  have hcfg : t.cfg = s.cfg := (Reaches.sameEnvironment (reaches_exec hexec)).1
  obtain ⟨-, -, htlast, -⟩ := decodeAlwaysEndsInAwaitStart u t hdecode
  have hutnow : u.tnow = timeOf s.cfg.timeWidth now := by rw [hu]; rfl
  have hquietAgain : elapsedOf t.cfg.timeWidth later t.tlast ≤ t.cfg.timeoutT := by
    rwa [hcfg, htlast, hutnow, elapsedOf_timeOf_last]
  rw [← hcfg] at hendOnly htrailer hfits
  obtain ⟨u', t', hexec', hdecode', hholds', hu', -⟩ :=
    wellFormedFrameIsDecodedOnceOnItsOwnBytes t ss later body tr htsane htst htlen hquietAgain
      hendOnly htrailer hfits
  rw [hcfg] at hexec' hholds'
  obtain ⟨-, -, -, -, hsdec, -⟩ := hsane
  obtain ⟨-, -, -, -, htdec, -⟩ := htsane
  have hucfg : u.cfg = s.cfg := by rw [hu]
  have hucfg' : u'.cfg = t.cfg := by rw [hu']
  have hframe : SameFrame u u' :=
    sameFrame_of_holds (by rw [hucfg, hucfg', hcfg]) hholds hholds'
  obtain ⟨es, hout, hout'⟩ := decodeFrame_same_events hframe (by rw [hu]; exact hsdec)
    (by rw [hu']; exact htdec) (eq_of_inState_eq_next hdecode).2 (eq_of_inState_eq_next hdecode').2
  have huout : u.out = s.out := by rw [hu]
  have huout' : u'.out = t.out := by rw [hu']
  exact ⟨t, t', es, hexec, hexec', by rw [hout, huout], by rw [hout', huout']⟩

end Sys2Proof.Proofs.Noninterference
end
